-- ==== Sys2Proof/Word.lean ====
section
/-! DEFINITION. The value types of the block (00_scope.md R14): a Word is 16 bits, a Factor and a
Portion are four Words, a bus value is 32 bits. -/

namespace Sys2Proof

abbrev Byte := BitVec 8

/-- `Word`: "a 16-bit unsigned integer" (R8, R14); `+` on it wraps at 2^16 (R15). -/
abbrev Word := BitVec 16

/-- A 32-bit value of the bus (R13). -/
abbrev Word32 := BitVec 32

/-- `Factor`: an array `A[0..3]` of Words (R14). -/
abbrev Factor := Vector Word 4

/-- `Portion`: an array `P[0..3]` of Words (R14). -/
abbrev Portion := Vector Word 4

/-- The Factor whose four words are 0. -/
def Factor.zero : Factor := #v[0, 0, 0, 0]

end Sys2Proof
end

