-- ==== Sys2Proof/Syntax.lean ====
section
/-! DEFINITION. The syntax: what the host puts on the bus, where an encoding lives, and one
constructor of `Instr` for each row of spec/opcode_table.json (30_encoding.md R70 to R75). -/

namespace Sys2Proof

/-- The size of an access: 1, 2 or 4 bytes (R55: no other size exists on the 32-bit bus; log 23). -/
inductive Size where
  | one
  | two
  | four
deriving DecidableEq, Repr

/-- One bus transaction, the tuple `(dir, addr, size, data)` of R75. `data` is meaningful for a
write only, so a read carries none. -/
inductive Transaction where
  | read (addr : Word32) (size : Size)
  | write (addr : Word32) (size : Size) (data : Word32)
deriving DecidableEq, Repr

/-- The eight numeral bases of the digest windows DIGEST_0 to DIGEST_7, in window order (R29). -/
inductive Base where
  | b60
  | b20
  | b16
  | b14
  | b12
  | b8
  | b6
  | b2
deriving DecidableEq, Repr

/-- An encoding with the place it lives in, since "a decoder knows the kind from where the
encoding lives" (R70): the `upc` register, the data of a CTRL write, or one bus access. -/
inductive Encoding where
  | micro (op : BitVec 5)
  | command (data : Word32)
  | bus (t : Transaction)
deriving DecidableEq, Repr

/-- One constructor per row of the opcode table. Micro-ops have no operand fields (R71). A
command's operand is its 32-bit data (R81). `off` is the byte's place inside the item read: the
low two bits of a register's address, the low six of a digest window's. -/
inductive Instr where
  | idle
  | pad
  | init
  | mix
  | capt
  | alpha
  | delta
  | theta
  | gamma
  | prime
  | shuf
  | add
  | finish
  | setie (data : Word32)
  | start (data : Word32)
  | clear (data : Word32)
  | rdId (off : BitVec 2) (size : Size)
  | rdCtrl (off : BitVec 2) (size : Size)
  | wrCtrl (data : Word32)
  | rdStatus (off : BitVec 2) (size : Size)
  | wrStatus (data : Word32)
  | rdCause (off : BitVec 2) (size : Size)
  | rdLen (off : BitVec 2) (size : Size)
  | wrLen (data : Word32)
  | rdCap (off : BitVec 2) (size : Size)
  | rdOut01 (off : BitVec 2) (size : Size)
  | rdOut23 (off : BitVec 2) (size : Size)
  | rdD60 (off : BitVec 6) (size : Size)
  | rdD20 (off : BitVec 6) (size : Size)
  | rdD16 (off : BitVec 6) (size : Size)
  | rdD14 (off : BitVec 6) (size : Size)
  | rdD12 (off : BitVec 6) (size : Size)
  | rdD8 (off : BitVec 6) (size : Size)
  | rdD6 (off : BitVec 6) (size : Size)
  | rdD2 (off : BitVec 6) (size : Size)
  | rdMsg (addr : Word32) (size : Size)
  | wrMsg (addr : Word32) (size : Size) (data : Word32)
  | busErr (t : Transaction)
deriving DecidableEq, Repr

end Sys2Proof
end

