-- ==== Sys2Proof/Config.lean ====
section
/-! DEFINITION. What the configuration fixes and the spec does not print (00_scope.md R7, R9 to
R13): constants WITHOUT A BODY, so that no proof can see a value, each brought into the range the
spec gives for it; and the two free values of the model.

A constant named `…Raw` is the free value itself; the definition after it maps it ONTO the values
the spec allows, so every allowed configuration is one of its readings and none outside is. -/

namespace Sys2Proof.Config

/-- A free choice of `n` distinct members of `pool`, in a free order, steered by `raw`. -/
def draw {α : Type} (raw : Nat → Nat) : Nat → List α → List α
  | 0, _ => []
  | n + 1, pool =>
    match pool[raw n % pool.length]? with
    | some x => x :: draw raw n (pool.eraseIdx (raw n % pool.length))
    | none => []

/-! ## Message capacity -/

opaque msgCapRaw : Nat

/-- `MSG_CAP`, OPEN with 1 ≤ MSG_CAP ≤ 0xFFFF_F000 (R13). Log 4. -/
def msgCap : Nat := msgCapRaw % 0xFFFFF000 + 1

/-! ## Constant tables (R9) -/

/-- `IV[0..3]`, OPEN. Log 4. -/
opaque iv : Fin 4 → Word

/-- `MASK[0..3]`, OPEN. Log 4. -/
opaque mask : Fin 4 → Word

opaque rprimeRaw : BitVec 7 → Word

/-- `RPRIME[q]`, OPEN, every entry at least 2 (R9). Indexed by the 7-bit counter q: entries 90 to
127 do not exist and no run reads them; there the value is free as well (log 13). Log 4. -/
def rprime (q : BitVec 7) : Word :=
  if (rprimeRaw q).toNat < 2 then rprimeRaw q + 2 else rprimeRaw q

/-- The primes below 256: the range of an entry of PRIME8 (R9: "every PRIME8[k] is a prime below
256"), not its contents and not its order, which stay OPEN. -/
def primesBelow256 : List Word :=
  [2, 3, 5, 7, 11, 13, 17, 19, 23, 29, 31, 37, 41, 43, 47, 53, 59, 61] ++
  [67, 71, 73, 79, 83, 89, 97, 101, 103, 107, 109, 113, 127, 131, 137, 139, 149, 151] ++
  [157, 163, 167, 173, 179, 181, 191, 193, 197, 199, 211, 223, 227, 229, 233, 239, 241, 251]

opaque prime8Raw : Fin 54 → Fin 54

/-- The table `PRIME8[0..53]`, OPEN, each entry some prime below 256. Log 4. -/
def prime8 (k : Fin 54) : Word := primesBelow256.getD (prime8Raw k).val 2

/-- The constant tables that a function of stage 1 may read: those of R9 (R12) but for RPRIME, which
only PRIME reads (10_state.md R38). Log 5. -/
structure Tables where
  iv : Fin 4 → Word
  prime8 : Fin 54 → Word
  mask : Fin 4 → Word

def tables : Tables where
  iv := iv
  prime8 := prime8
  mask := mask

/-! ## Configuration functions (R12, R132, R148 to R152): total, deterministic, word-valued -/

opaque portionMixFn : (Fin 54 → Word) → Factor → Portion → BitVec 5 → Factor
opaque alphaFn : Tables → Factor → Factor
opaque deltaFn : Tables → Factor → Factor
opaque thetaFn : Tables → Factor → Factor
opaque gammaFn : Tables → Factor → Factor
opaque primeMixFn : (Fin 4 → Word) → (Fin 54 → Word) → Factor → Word → Factor

/-- `PortionMix : Factor × Portion × Round → Factor` (R132), reading PRIME8 and no other table.
The round is the 5-bit counter r; at r = 31, which is no round, the result is free (log 13). Log 5. -/
def portionMix (a : Factor) (p : Portion) (r : BitVec 5) : Factor := portionMixFn prime8 a p r

/-- `Alpha : Factor → Factor` (R148). Log 5. -/
def alpha (a : Factor) : Factor := alphaFn tables a

/-- `Delta : Factor → Factor` (R149). Log 5. -/
def delta (a : Factor) : Factor := deltaFn tables a

/-- `Theta : Factor → Factor` (R150). Log 5. -/
def theta (a : Factor) : Factor := thetaFn tables a

/-- `Gamma : Factor → Factor` (R151), its ILog2 helper (R159) inside. Log 5. -/
def gamma (a : Factor) : Factor := gammaFn tables a

/-- `PrimeMix : Factor × Word → Factor` (R152), reading MASK and PRIME8. Log 5. -/
def primeMix (a : Factor) (p : Word) : Factor := primeMixFn mask prime8 a p

/-! ## Shuffle order (R11) -/

/-- The six unordered pairs of {0,1,2,3}. -/
def slotPairs : List (Fin 4 × Fin 4) := [(0, 1), (0, 2), (0, 3), (1, 2), (1, 3), (2, 3)]

opaque shuffleRaw : Nat → Nat

/-- `SHUFFLE_ORDER`, OPEN: the six pairs, each once, in a free order (R11). Log 6. -/
def shuffleOrder : List (Fin 4 × Fin 4) := draw shuffleRaw 6 slotPairs

/-! ## Digest alphabets (R10) -/

/-- The base B of a digest window (R29, R171). -/
def radix : Base → Nat
  | .b60 => 60
  | .b20 => 20
  | .b16 => 16
  | .b14 => 14
  | .b12 => 12
  | .b8 => 8
  | .b6 => 6
  | .b2 => 2

opaque alphabetRaw : Base → Nat → Nat

/-- `ALPH_16` is decided: the codes of `0123456789ABCDEF` (R10, R173). -/
def hexAlphabet : List Byte :=
  [0x30, 0x31, 0x32, 0x33, 0x34, 0x35, 0x36, 0x37] ++
  [0x38, 0x39, 0x41, 0x42, 0x43, 0x44, 0x45, 0x46]

/-- `ALPH_B`: B pairwise distinct 8-bit codes. Base 16 is decided, the other seven are OPEN (R10).
Log 7. -/
def alphabet : Base → List Byte
  | .b16 => hexAlphabet
  | b => draw (alphabetRaw b) (radix b) ((List.range 256).map (BitVec.ofNat 8))

/-! ## Free values -/

/-- The arbitrary contents of MSG after a reset (20_memory.md R53, 93 I-23): which draw, and the
index of the byte. Log 8. -/
opaque msgAtReset : Nat → Nat → Byte

/-- The remainder `n mod 0`, which no rule gives: a function of the operand. Log 12. -/
opaque modZero : Nat → Nat

/-- `Word(i)` for an i at or past the end of the padded stream, which no rule gives. Log 13. -/
opaque wordPastStream : Nat → Word

end Sys2Proof.Config
end

