-- ==== Sys2Proof/Machine/Codes.lean ====
section
/-! DEFINITION. The numbers of the encodings: micro-op codes (30_encoding.md R72) and the host
address map (10_state.md R20, 20_memory.md R52, 30_encoding.md R75). -/

namespace Sys2Proof.Machine

/-! ## Micro-op codes (R72) -/

abbrev upcIdle : BitVec 5 := 0x00
abbrev upcPad : BitVec 5 := 0x01
abbrev upcInit : BitVec 5 := 0x02
abbrev upcMix : BitVec 5 := 0x03
abbrev upcCapt : BitVec 5 := 0x04
abbrev upcAlpha : BitVec 5 := 0x05
abbrev upcDelta : BitVec 5 := 0x06
abbrev upcTheta : BitVec 5 := 0x07
abbrev upcGamma : BitVec 5 := 0x08
abbrev upcPrime : BitVec 5 := 0x09
abbrev upcShuf : BitVec 5 := 0x0A
abbrev upcAdd : BitVec 5 := 0x0B
abbrev upcFinish : BitVec 5 := 0x0C

/-! ## Sizes and alignment -/

/-- The number of bytes of an access. -/
def bytesOf : Size → Nat
  | .one => 1
  | .two => 2
  | .four => 4

/-- Naturally aligned: `a mod n = 0` (R57). -/
def aligned (a : Nat) (n : Size) : Bool := a % bytesOf n == 0

/-! ## The address map -/

/-- An item of the map: a 32-bit register, a digest window, or the MSG window (R55). -/
inductive Item where
  | id
  | ctrl
  | status
  | cause
  | len
  | cap
  | out01
  | out23
  | digest (b : Base)
  | msg
deriving DecidableEq, Repr

/-- Host address of `MSG[0]` (R53). -/
abbrev msgBase : Nat := 0x1000

/-- The window of `DIGEST_k` for the k-th block of 0x40 bytes from 0x000 (R29: 0x100 + 0x40·k). -/
def digestOfBlock : Nat → Option Base
  | 4 => some .b60
  | 5 => some .b20
  | 6 => some .b16
  | 7 => some .b14
  | 8 => some .b12
  | 9 => some .b8
  | 10 => some .b6
  | 11 => some .b2
  | _ => none

/-- The item of the register region 0x000 to 0xFFF that holds byte address `a`, none where the
region is unmapped (R20). -/
def registerItem (a : Nat) : Option Item :=
  match a / 4 with
  | 0 => some .id
  | 1 => some .ctrl
  | 2 => some .status
  | 3 => some .cause
  | 4 => some .len
  | 5 => some .cap
  | 6 => some .out01
  | 7 => some .out23
  | _ => (digestOfBlock (a / 0x40)).map .digest

/-- All `n` bytes from host address `a` lie in the MSG window (R52, R106). -/
def inMsgWindow (a : Nat) (n : Size) : Bool :=
  decide (msgBase ≤ a) && decide (a - msgBase + bytesOf n ≤ Config.msgCap)

/-- The one item that holds all of `a .. a+n-1`, for an aligned access (R55). -/
def itemOf (a : Nat) (n : Size) : Option Item :=
  if a < msgBase then registerItem a
  else if inMsgWindow a n then some .msg
  else none

/-- The first address of an item of the register region (R20); `msgBase` for MSG. -/
def itemBase : Item → Nat
  | .id => 0x000
  | .ctrl => 0x004
  | .status => 0x008
  | .cause => 0x00C
  | .len => 0x010
  | .cap => 0x014
  | .out01 => 0x018
  | .out23 => 0x01C
  | .digest .b60 => 0x100
  | .digest .b20 => 0x140
  | .digest .b16 => 0x180
  | .digest .b14 => 0x1C0
  | .digest .b12 => 0x200
  | .digest .b8 => 0x240
  | .digest .b6 => 0x280
  | .digest .b2 => 0x2C0
  | .msg => msgBase

/-- A write is legal to MSG at every size, and to CTRL, STATUS and LEN at size 4 (R58). -/
def writableItem : Item → Size → Bool
  | .msg, _ => true
  | .ctrl, .four => true
  | .status, .four => true
  | .len, .four => true
  | _, _ => false

/-- A transaction that R78 does not call illegal: aligned, mapped, and for a write to a writable
item at a width it takes. -/
def legal : Transaction → Bool
  | .read a n => aligned a.toNat n && (itemOf a.toNat n).isSome
  | .write a n _ =>
    aligned a.toNat n &&
      match itemOf a.toNat n with
      | some i => writableItem i n
      | none => false

end Sys2Proof.Machine
end

