-- ==== Sys2Proof/WellFormed.lean ====
section
/-! DEFINITION. When an instruction term is the reading of an encoding: a command's data carries
its pattern (30_encoding.md R74), a read is aligned inside its item (R55, R57), an MSG access lies
in the window (R106), and BUS_ERR holds a transaction that R78 calls illegal. -/

namespace Sys2Proof

open Machine

/-- The checks of each constructor. Micro-ops and 4-byte register writes have none. -/
def Instr.wf : Instr → Bool
  | .idle => true
  | .pad => true
  | .init => true
  | .mix => true
  | .capt => true
  | .alpha => true
  | .delta => true
  | .theta => true
  | .gamma => true
  | .prime => true
  | .shuf => true
  | .add => true
  | .finish => true
  | .setie d => !d[1] && !d[0]
  | .start d => !d[1] && d[0]
  | .clear d => d[1]
  | .rdId off n => aligned off.toNat n
  | .rdCtrl off n => aligned off.toNat n
  | .wrCtrl _ => true
  | .rdStatus off n => aligned off.toNat n
  | .wrStatus _ => true
  | .rdCause off n => aligned off.toNat n
  | .rdLen off n => aligned off.toNat n
  | .wrLen _ => true
  | .rdCap off n => aligned off.toNat n
  | .rdOut01 off n => aligned off.toNat n
  | .rdOut23 off n => aligned off.toNat n
  | .rdD60 off n => aligned off.toNat n
  | .rdD20 off n => aligned off.toNat n
  | .rdD16 off n => aligned off.toNat n
  | .rdD14 off n => aligned off.toNat n
  | .rdD12 off n => aligned off.toNat n
  | .rdD8 off n => aligned off.toNat n
  | .rdD6 off n => aligned off.toNat n
  | .rdD2 off n => aligned off.toNat n
  | .rdMsg a n => aligned a.toNat n && inMsgWindow a.toNat n
  | .wrMsg a n _ => aligned a.toNat n && inMsgWindow a.toNat n
  | .busErr t => !legal t

/-- The instruction is the reading of some encoding. -/
abbrev WellFormed (i : Instr) : Prop := i.wf = true

end Sys2Proof
end

