-- ==== Sys2Proof/Decode.lean ====
section
/-! DEFINITION. The decoder, total on every encoding and rejecting by name (30_encoding.md R71 to
R78), and after it the encoder, written from the same tables. -/

namespace Sys2Proof

open Machine

/-- Why the decoder rejects: a reserved micro-op code (R76). Nothing else is rejected: every
command has a pattern (R74) and an illegal transaction is the row BUS_ERR (R75). -/
inductive DecodeError where
  | reservedMicroOp (code : BitVec 5)
deriving DecidableEq, Repr

/-! ## Decoder -/

/-- Format U (R72). -/
def decodeMicro (op : BitVec 5) : Except DecodeError Instr :=
  match op.toNat with
  | 0x00 => .ok .idle
  | 0x01 => .ok .pad
  | 0x02 => .ok .init
  | 0x03 => .ok .mix
  | 0x04 => .ok .capt
  | 0x05 => .ok .alpha
  | 0x06 => .ok .delta
  | 0x07 => .ok .theta
  | 0x08 => .ok .gamma
  | 0x09 => .ok .prime
  | 0x0A => .ok .shuf
  | 0x0B => .ok .add
  | 0x0C => .ok .finish
  | _ => .error (.reservedMicroOp op)

/-- Format CMD: the pattern `data & 0x3` selects the command, CLEAR winning over START (R74). -/
def decodeCommand (d : Word32) : Instr :=
  if d[1] then .clear d
  else if d[0] then .start d
  else .setie d

/-- The read of an item (R75); `a` is the transaction's address. -/
def decodeRead (a : Word32) (n : Size) : Item → Instr
  | .id => .rdId (a.setWidth 2) n
  | .ctrl => .rdCtrl (a.setWidth 2) n
  | .status => .rdStatus (a.setWidth 2) n
  | .cause => .rdCause (a.setWidth 2) n
  | .len => .rdLen (a.setWidth 2) n
  | .cap => .rdCap (a.setWidth 2) n
  | .out01 => .rdOut01 (a.setWidth 2) n
  | .out23 => .rdOut23 (a.setWidth 2) n
  | .digest .b60 => .rdD60 (a.setWidth 6) n
  | .digest .b20 => .rdD20 (a.setWidth 6) n
  | .digest .b16 => .rdD16 (a.setWidth 6) n
  | .digest .b14 => .rdD14 (a.setWidth 6) n
  | .digest .b12 => .rdD12 (a.setWidth 6) n
  | .digest .b8 => .rdD8 (a.setWidth 6) n
  | .digest .b6 => .rdD6 (a.setWidth 6) n
  | .digest .b2 => .rdD2 (a.setWidth 6) n
  | .msg => .rdMsg a n

/-- The write of an item (R75); a width or an item that takes no such write is a bus error. -/
def decodeWrite (a : Word32) (n : Size) (d : Word32) : Item → Instr
  | .msg => .wrMsg a n d
  | .ctrl => if n = .four then .wrCtrl d else .busErr (.write a n d)
  | .status => if n = .four then .wrStatus d else .busErr (.write a n d)
  | .len => if n = .four then .wrLen d else .busErr (.write a n d)
  | _ => .busErr (.write a n d)

/-- Format BUS, in the check order of R117: misalignment, unmapped address, then the item. -/
def decodeBus (t : Transaction) : Instr :=
  match t with
  | .read a n =>
    if aligned a.toNat n then
      match itemOf a.toNat n with
      | some i => decodeRead a n i
      | none => .busErr t
    else .busErr t
  | .write a n d =>
    if aligned a.toNat n then
      match itemOf a.toNat n with
      | some i => decodeWrite a n d i
      | none => .busErr t
    else .busErr t

/-- The decoder: the place of the encoding gives its format (R70). -/
def decode : Encoding → Except DecodeError Instr
  | .micro op => decodeMicro op
  | .command d => .ok (decodeCommand d)
  | .bus t => .ok (decodeBus t)

/-! ## Encoder -/

/-- The read of register item `i` at byte `off`. -/
def encodeRead {w : Nat} (i : Item) (off : BitVec w) (n : Size) : Encoding :=
  .bus (.read (BitVec.ofNat 32 (itemBase i + off.toNat)) n)

/-- The 4-byte write of register item `i`. -/
def encodeWrite (i : Item) (d : Word32) : Encoding :=
  .bus (.write (BitVec.ofNat 32 (itemBase i)) .four d)

/-- The encoding of an instruction (R72, R73, R75). -/
def encode : Instr → Encoding
  | .idle => .micro upcIdle
  | .pad => .micro upcPad
  | .init => .micro upcInit
  | .mix => .micro upcMix
  | .capt => .micro upcCapt
  | .alpha => .micro upcAlpha
  | .delta => .micro upcDelta
  | .theta => .micro upcTheta
  | .gamma => .micro upcGamma
  | .prime => .micro upcPrime
  | .shuf => .micro upcShuf
  | .add => .micro upcAdd
  | .finish => .micro upcFinish
  | .setie d => .command d
  | .start d => .command d
  | .clear d => .command d
  | .rdId off n => encodeRead .id off n
  | .rdCtrl off n => encodeRead .ctrl off n
  | .wrCtrl d => encodeWrite .ctrl d
  | .rdStatus off n => encodeRead .status off n
  | .wrStatus d => encodeWrite .status d
  | .rdCause off n => encodeRead .cause off n
  | .rdLen off n => encodeRead .len off n
  | .wrLen d => encodeWrite .len d
  | .rdCap off n => encodeRead .cap off n
  | .rdOut01 off n => encodeRead .out01 off n
  | .rdOut23 off n => encodeRead .out23 off n
  | .rdD60 off n => encodeRead (.digest .b60) off n
  | .rdD20 off n => encodeRead (.digest .b20) off n
  | .rdD16 off n => encodeRead (.digest .b16) off n
  | .rdD14 off n => encodeRead (.digest .b14) off n
  | .rdD12 off n => encodeRead (.digest .b12) off n
  | .rdD8 off n => encodeRead (.digest .b8) off n
  | .rdD6 off n => encodeRead (.digest .b6) off n
  | .rdD2 off n => encodeRead (.digest .b2) off n
  | .rdMsg a n => .bus (.read a n)
  | .wrMsg a n d => .bus (.write a n d)
  | .busErr t => .bus t

/-- The instruction is a micro-op (R70: format U). -/
def Instr.isMicroOp (i : Instr) : Bool :=
  match encode i with
  | .micro _ => true
  | _ => false

/-! ## The opcode table's numbers

A row of spec/opcode_table.json is one number: a micro-op code (one byte), a command's data, or a
bus address. The number alone does not say which of the last two it is, nor a transaction's
direction, size and data; the spec's decoder takes those from where the encoding lives (R70). -/

/-- The place and the missing parts of a table number. At most 8 bits: a micro-op code. A wider
number that is no multiple of 4 is read as a command's data; one that is, as the 1-byte read at
that address (1 byte, since MSG_CAP may be 1). Log 16. -/
def encodingOfTableWord (nbits w : Nat) : Encoding :=
  if nbits ≤ 8 then .micro (BitVec.ofNat 5 w)
  else if w % 4 = 0 then .bus (.read (BitVec.ofNat 32 w) .one)
  else .command (BitVec.ofNat 32 w)

/-- The instruction the decoder reads from a table number. -/
def decodeTableWord (nbits w : Nat) : Option Instr :=
  match decode (encodingOfTableWord nbits w) with
  | .ok i => some i
  | .error _ => none

end Sys2Proof
end

