-- ==== Sys2Proof/Machine/State.lean ====
section
/-! DEFINITION. The state of the block: every register of 10_state.md, the message memory, the
reset input, the bus response, and the turns still to come. Plain data. -/

namespace Sys2Proof.Machine

/-- One turn of the interleaving (20_memory.md R62): the engine's, the host's (a command in CMD
format, or a bus transaction; R70, R100), or a change of the reset input (R220). -/
inductive Event where
  | engine
  | command (data : Word32)
  | bus (t : Transaction)
  | rst (asserted : Bool)
deriving DecidableEq, Repr

/-- What the bus answers (R55, R205): read data, a write taken, or the bus-error response, which
for a read comes with data. -/
inductive Response where
  | readData (v : Word32)
  | writeDone
  | readError (v : Word32)
  | writeError
deriving DecidableEq, Repr

/-- The message memory (R53): the bytes that differ from the reset contents, as (index into MSG,
byte) pairs, and which draw of the arbitrary reset contents stands behind them (log 8). -/
structure Memory where
  draw : Nat
  cells : List Host.Cell
deriving DecidableEq, Repr

/-- The state. Field by field: INVENTORY.md, "State". -/
structure State where
  -- host-visible registers (R23 to R26, R35) and the message memory (R53)
  ie : Bool
  busy : Bool
  done : Bool
  err : Bool
  werr : Bool
  cause : BitVec 2
  len : Word32
  out : Factor
  msg : Memory
  -- internal registers (R30 to R34)
  acc : Factor
  pre : Factor
  tail : Vector Word 63
  upc : BitVec 5
  blk : BitVec 32
  ch : BitVec 2
  po : BitVec 2
  r : BitVec 5
  q : BitVec 7
  t : BitVec 6
  nt : BitVec 6
  nb : BitVec 32
  n : BitVec 64
  -- pins and bus: the reset input (R220), the response to the last transaction
  rst : Bool
  resp : Option Response
  -- the model's own: the turns still to come, oldest first (log 1)
  sched : List Event
deriving DecidableEq, Repr

/-- Why the machine stops. -/
inductive Fault where
  /-- Raised by PAD at t = 63, which would write TAIL[63]: TAIL has entries 0 to 62 (R34). No run
  reaches it (R124). Safe: the model stops where no rule gives an effect. Log 14. -/
  | tailIndexOutOfRange
deriving DecidableEq, Repr

/-- Why the model gives no meaning. -/
inductive Refusal where
  /-- Answered by `exec` for an instruction that has no meaning yet. Safe. -/
  | notModelled (mnemonic : String)
  /-- Answered by the engine's turn when `upc` holds a reserved code 0x0D to 0x1F (R76: "A model
  must refuse a state whose upc holds one"). No run reaches it. The refusal is safe; that
  the other turns run on there is a DESIGN CHOICE, unsafe where a statement follows one (log 25). -/
  | reservedMicroOp (code : BitVec 5)
deriving DecidableEq, Repr

/-- The machine right after reset (70_reset_and_hazards.md R221). TAIL, which the spec leaves
unspecified, is 0 (log 9, DESIGN CHOICE); MSG is the first draw of the free reset contents (log 8);
no turn is scheduled and nothing has been answered (logs 1, 3). -/
def State.reset : State where
  ie := false
  busy := false
  done := false
  err := false
  werr := false
  cause := 0
  len := 0
  out := Factor.zero
  msg := ⟨0, []⟩
  acc := Factor.zero
  pre := Factor.zero
  tail := Vector.replicate 63 0
  upc := 0x00
  blk := 0
  ch := 0
  po := 0
  r := 0
  q := 0
  t := 0
  nt := 0
  nb := 0
  n := 0
  rst := false
  resp := none
  sched := []

end Sys2Proof.Machine
end

