-- ==== Sys2Proof/Machine/Ops.lean ====
section
/-! DEFINITION. The shared operations over memory and registers: reads and writes of MSG, answers
on the bus, error entry and recovery, commands, and the counters' successor step. -/

namespace Sys2Proof.Machine

/-! ## Message memory -/

/-- The listed byte at index `i`, if any. -/
def findCell : List Host.Cell → Nat → Option Byte
  | [], _ => none
  | c :: cs, i => if c.1 = i then some c.2 else findCell cs i

/-- The list with the byte at `i` set, addresses rising. -/
def insertCell : List Host.Cell → Nat → Byte → List Host.Cell
  | [], i, v => [(i, v)]
  | c :: cs, i, v =>
    if i < c.1 then (i, v) :: c :: cs
    else if i = c.1 then (i, v) :: cs
    else c :: insertCell cs i v

/-- The list without a byte at `i`. -/
def eraseCell : List Host.Cell → Nat → List Host.Cell
  | [], _ => []
  | c :: cs, i => if c.1 = i then cs else c :: eraseCell cs i

/-- What a byte that nothing has written reads as: the reset contents of the current draw (R53,
I-23; log 8). -/
def Memory.unlisted (m : Memory) (i : Nat) : Byte := Config.msgAtReset m.draw i

/-- `MSG[i]` (R53). -/
def Memory.read (m : Memory) (i : Nat) : Byte := (findCell m.cells i).getD (m.unlisted i)

/-- `MSG[i] <- v`, keeping the canonical form. -/
def Memory.write (m : Memory) (i : Nat) (v : Byte) : Memory :=
  { m with cells := if v = m.unlisted i then eraseCell m.cells i else insertCell m.cells i v }

/-- The canonical form: addresses strictly rising, no entry equal to what an unlisted address
reads as. -/
abbrev Memory.wf (m : Memory) : Prop :=
  m.cells.Pairwise (fun a b => a.1 < b.1) ∧ ∀ c ∈ m.cells, c.2 ≠ m.unlisted c.1

/-- Byte `k` of a 32-bit value, byte 0 the least significant (R54). -/
def byteOf (v : Word32) (k : Nat) : Byte := (v >>> (8 * k)).setWidth 8

/-- `for k in 0..size-1: MSG[i+k] <- data[8k+7:8k]` (R106). -/
def Memory.writeBytes (m : Memory) (i : Nat) (v : Word32) : Size → Memory
  | .one => m.write i (byteOf v 0)
  | .two => (m.write i (byteOf v 0)).write (i + 1) (byteOf v 1)
  | .four =>
    (((m.write i (byteOf v 0)).write (i + 1) (byteOf v 1)).write (i + 2) (byteOf v 2)).write
      (i + 3) (byteOf v 3)

/-- The value of `n` bytes `f 0 .. f (n-1)`, little-endian, zero-extended to 32 bits (R55). -/
def assemble (f : Nat → Byte) : Size → Word32
  | .one => (f 0).setWidth 32
  | .two => (f 0).setWidth 32 ||| (f 1).setWidth 32 <<< 8
  | .four =>
    (f 0).setWidth 32 ||| (f 1).setWidth 32 <<< 8 ||| (f 2).setWidth 32 <<< 16 |||
      (f 3).setWidth 32 <<< 24

/-! ## Answers on the bus -/

/-- The transaction completes with response `r`. -/
def State.answer (s : State) (r : Response) : State := { s with resp := some r }

/-- The bus-error response: a read returns data 0 with an error indication (R205). -/
def busErrorResponse : Transaction → Response
  | .read _ _ => .readError 0
  | .write _ _ _ => .writeError

/-- `raise BusError`: the response to an illegal transaction, and no change of any state (R205). -/
def State.busError (s : State) (t : Transaction) : State := s.answer (busErrorResponse t)

/-! ## Errors -/

/-- The causes START raises (R201). -/
inductive ErrorCause where
  | emptyInput
  | lenRange
deriving DecidableEq, Repr

/-- The code of a cause in CAUSE[1:0] (R201). -/
def causeCode : ErrorCause → BitVec 2
  | .emptyInput => 1
  | .lenRange => 2

/-- Error entry, `raise Error(c)` (R203): ERR and CAUSE, and nothing else. -/
def State.raiseError (s : State) (c : ErrorCause) : State :=
  { s with err := true, cause := causeCode c }

/-- The return from an error (R207, R104): ERR and CAUSE cleared; nothing was saved, so nothing is
restored. -/
def State.clearError (s : State) : State := { s with err := false, cause := 0 }

/-- A write, or a START, dropped while busy: WERR is set, nothing else changes (R204). -/
def State.dropWrite (s : State) : State := { s with werr := true }

/-! ## Commands -/

/-- The number of tail words, `(64 - (L mod 64)) mod 64` (R101, R124). -/
def tailCount (len : Word32) : BitVec 6 := BitVec.ofNat 6 ((64 - len.toNat % 64) % 64)

/-- START clears the flags of an earlier outcome before its checks (R101). -/
def State.clearOutcome (s : State) : State :=
  { s with done := false, err := false, werr := false, cause := 0 }

/-- `(NT != 0) ? PAD : INIT` (R101). -/
def firstMicroOp (nt : BitVec 6) : BitVec 5 := if nt = 0 then upcInit else upcPad

/-- An accepted START sets the padder's counters, BUSY and the first micro-op (R101). -/
def State.beginHash (s : State) : State :=
  { s with
    n := s.len.setWidth 64
    t := 0
    nt := tailCount s.len
    busy := true
    upc := firstMicroOp (tailCount s.len) }

/-- START (R101), its checks in the order of R202. -/
def State.startCommand (s : State) : State :=
  if s.busy then s.dropWrite
  else if s.len.toNat = 0 then s.clearOutcome.raiseError .emptyInput
  else if Config.msgCap < s.len.toNat then s.clearOutcome.raiseError .lenRange
  else s.clearOutcome.beginHash

/-- CLEAR (R102): the engine idle, every STATUS bit and CAUSE 0, ACC, PRE, OUT and the counters 0;
IE, LEN, MSG and TAIL unchanged. -/
def State.clearCommand (s : State) : State :=
  { s with
    upc := upcIdle
    busy := false
    done := false
    err := false
    werr := false
    cause := 0
    acc := Factor.zero
    pre := Factor.zero
    out := Factor.zero
    n := 0
    t := 0
    nt := 0
    nb := 0
    blk := 0
    ch := 0
    po := 0
    r := 0
    q := 0 }

/-- Every CTRL write first copies bit 2 into IE (R74, R103). -/
def State.setIe (s : State) (data : Word32) : State := { s with ie := data[2] }

/-! ## Reset (R220, R221) -/

/-- The registers at their reset values, MSG at a new draw of its arbitrary contents; the turns
still to come and the last answer are no part of the block. -/
def State.resetRegisters (s : State) : State :=
  { State.reset with
    msg := ⟨s.msg.draw + 1, []⟩
    rst := s.rst
    resp := s.resp
    sched := s.sched }

/-- The reset input changes. While it is asserted every register holds its reset value (log 11). -/
def State.setRst (s : State) (asserted : Bool) : State :=
  if asserted then { s.resetRegisters with rst := true } else { s with rst := false }

/-! ## The sequencer's successor step -/

/-- ADVANCE (R162): the next round, portion, chunk or block, or FINISH after the last. -/
def State.advance (s : State) : State :=
  if s.r.toNat < 30 then { s with r := s.r + 1, upc := upcMix }
  else if s.po.toNat < 3 then { s with r := 0, po := s.po + 1, upc := upcMix }
  else if s.ch.toNat < 3 then { s with r := 0, po := 0, ch := s.ch + 1, upc := upcMix }
  else if s.blk.toNat + 1 < s.nb.toNat then
    { s with r := 0, po := 0, ch := 0, blk := s.blk + 1, upc := upcMix }
  else { s with r := 0, po := 0, ch := 0, upc := upcFinish }

end Sys2Proof.Machine
end

