-- ==== Sys2Proof/Machine/Flags.lean ====
section
/-! DEFINITION. The flags as the host reads and writes them: the CTRL, STATUS and CAUSE words
(10_state.md R23 to R25), the interrupt output (60_exceptions.md R208), and the write-1-to-clear of
STATUS (40_host_interface.md R104). The block has no other flags (R39). -/

namespace Sys2Proof.Machine

/-- A flag as a 32-bit value, at bit 0. -/
def flagBit (b : Bool) : Word32 := (BitVec.ofBool b).setWidth 32

/-- The interrupt output, `irq = IE & (DONE | ERR)` (R208). -/
def State.irq (s : State) : Bool := s.ie && (s.done || s.err)

/-- `{27'b0, IE & (DONE | ERR), WERR, ERR, DONE, BUSY}` (R24, R110). -/
def State.statusWord (s : State) : Word32 :=
  flagBit s.busy ||| flagBit s.done <<< 1 ||| flagBit s.err <<< 2 ||| flagBit s.werr <<< 3 |||
    flagBit s.irq <<< 4

/-- A read of CTRL: `zext_32(IE) << 2`; START and CLEAR read 0 (R23, R109). -/
def State.ctrlWord (s : State) : Word32 := flagBit s.ie <<< 2

/-- A read of CAUSE: `zext_32(CAUSE[1:0])` (R25, R111). -/
def State.causeWord (s : State) : Word32 := s.cause.setWidth 32

/-- Clear DONE where `data[1]` is 1 (R104). -/
def State.clearDoneIf (s : State) (b : Bool) : State := if b then { s with done := false } else s

/-- Clear ERR and with it CAUSE where `data[2]` is 1 (R104). -/
def State.clearErrIf (s : State) (b : Bool) : State := if b then s.clearError else s

/-- Clear WERR where `data[3]` is 1 (R104). -/
def State.clearWerrIf (s : State) (b : Bool) : State := if b then { s with werr := false } else s

/-- The STATUS write, write 1 to clear; BUSY, IRQ and the reserved bits are ignored (R104). -/
def State.statusWrite (s : State) (data : Word32) : State :=
  ((s.clearDoneIf data[1]).clearErrIf data[2]).clearWerrIf data[3]

end Sys2Proof.Machine
end

