-- ==== Sys2Proof/Machine/Operands.lean ====
section
/-! DEFINITION. The operand forms: the padded stream and its portions (41_padder.md R121,
30_encoding.md R79), the padder's byte (R122), the word-wise Factor operations of the round pipeline
(43_round_pipeline.md R145 to R147), the bytes a host read selects (20_memory.md R55), and the
primitives of 00_scope.md R14 and 42_init_mixer.md R134, R135 that describe the OPEN functions. -/

namespace Sys2Proof.Machine

/-! ## Padded stream -/

/-- `n mod L`; for L = 0, which PAD never sees (R127), a free value (log 12). -/
def padIndex (n : BitVec 64) (len : Word32) : Nat :=
  if len.toNat = 0 then Config.modZero n.toNat else n.toNat % len.toNat

/-- The tail word PAD appends: `zext_16(MSG[n mod L]) ^ zext_16(n[7:0])` (R122). -/
def State.padWord (s : State) : Word :=
  (s.msg.read (padIndex s.n s.len)).setWidth 16 ^^^ (s.n.setWidth 8).setWidth 16

/-- `Word(i)` of the padded stream (R121): the message's bytes, then TAIL. Past the stream, where no
rule gives a value, a free one (log 13). -/
def State.streamWord (s : State) (i : Nat) : Word :=
  if i < s.len.toNat then (s.msg.read i).setWidth 16
  else if i < s.len.toNat + s.nt.toNat then
    if h : i - s.len.toNat < 63 then s.tail[i - s.len.toNat] else Config.wordPastStream i
  else Config.wordPastStream i

/-- The first word of the current portion: `64*blk + 16*ch + 4*po` (R79, R131). -/
def State.portionBase (s : State) : Nat :=
  64 * s.blk.toNat + 16 * s.ch.toNat + 4 * s.po.toNat

/-- The current portion, `P[j] = Word(base + j)` (R79, R131). -/
def State.portion (s : State) : Portion :=
  #v[s.streamWord s.portionBase, s.streamWord (s.portionBase + 1),
    s.streamWord (s.portionBase + 2), s.streamWord (s.portionBase + 3)]

/-! ## Word-wise Factor operations -/

/-- `ACC[i] mod p` for every word (R145). -/
def reduceFactor (a : Factor) (p : Word) : Factor := #v[a[0] % p, a[1] % p, a[2] % p, a[3] % p]

/-- `PRE[i] +16 ACC[i]` for every word; the sum wraps (R147, R157). -/
def addFactor (a b : Factor) : Factor := #v[a[0] + b[0], a[1] + b[1], a[2] + b[2], a[3] + b[3]]

/-- `tmp = ACC[a]; ACC[a] <- ACC[b]; ACC[b] <- tmp` (R146). -/
def swapWords (x : Factor) (p : Fin 4 × Fin 4) : Factor := (x.set p.1 x[p.2]).set p.2 x[p.1]

/-- The shuffle: the six swaps in SHUFFLE_ORDER (R146). -/
def shuffle (x : Factor) : Factor := Config.shuffleOrder.foldl swapWords x

/-! ## Bytes of a host read -/

/-- The bytes of a 32-bit register that a read at byte `off` selects (R54, R55, R58). -/
def selectBytes (v : Word32) (off : BitVec 2) (n : Size) : Word32 :=
  assemble (fun k => byteOf v (off.toNat + k)) n

/-! ## Primitives of the OPEN functions' outlines

No meaning calls these: the mixer and stage 1 are configuration functions. They are the exact parts
of the outlines, which a configuration can be checked against. -/

/-- `rotl16(x, s)`, rotate amounts taken modulo 16 (R14). -/
def rotl16 (x : Word) (k : Nat) : Word := x <<< (k % 16) ||| x >>> ((16 - k % 16) % 16)

/-- `rotr16`, the mirror image of `rotl16` (R14). -/
def rotr16 (x : Word) (k : Nat) : Word := x >>> (k % 16) ||| x <<< ((16 - k % 16) % 16)

/-- `PRIME8[x]` in any rule means `PRIME8[x mod 54]` (R37, R136). -/
def prime8At (x : Nat) : Word := Config.prime8 (Fin.ofNat 54 x)

/-- The mixer's target slot `t_j = (P[j] + r) mod 4` (R134). -/
def targetSlot (p : Portion) (r : BitVec 5) (j : Fin 4) : Nat := (p[j].toNat + r.toNat) % 4

/-- The mixer's final shift of slot k, `P[τ(k)] mod (k+1)`, for the portion word x = P[τ(k)] (R135). -/
def finalShift (x : Word) (k : Fin 4) : Nat := x.toNat % (k.val + 1)

end Sys2Proof.Machine
end

