-- ==== Sys2Proof/Machine/Digest.lean ====
section
/-! DEFINITION. The digest encoder (45_digest.md): the numeral-base strings and the four numeric
views, pure functions of OUT (R170). -/

namespace Sys2Proof.Machine

/-- Digits per word, W_B (R171). -/
def digitCount : Base → Nat
  | .b60 => 3
  | .b20 => 4
  | .b16 => 4
  | .b14 => 5
  | .b12 => 5
  | .b8 => 6
  | .b6 => 7
  | .b2 => 16

/-- The digits of one word, most significant first (R172). -/
def digits (b : Base) (v : Word) : List Nat :=
  (List.range (digitCount b)).map fun k =>
    v.toNat / Config.radix b ^ (digitCount b - 1 - k) % Config.radix b

/-- `ALPH_B[d]` (R173). Every digit is below B (R176), so the lookup is always in range. -/
def charOf (b : Base) (d : Nat) : Byte := (Config.alphabet b).getD d 0

/-- `Chars_B(v)` (R174). -/
def chars (b : Base) (v : Word) : List Byte := (digits b v).map (charOf b)

/-- The digest string `D_B`: the four words' characters in word order (R174). -/
def digestString (b : Base) (out : Factor) : List Byte :=
  chars b out[0] ++ chars b out[1] ++ chars b out[2] ++ chars b out[3]

/-- Byte `x` of the digest window: the string's character, and 0 past the string (R29, R116). -/
def digestByte (b : Base) (out : Factor) (x : Nat) : Byte := (digestString b out).getD x 0

/-- What a read of a digest window at byte `off` selects (R116). -/
def selectDigest (b : Base) (out : Factor) (off : BitVec 6) (n : Size) : Word32 :=
  assemble (fun m => digestByte b out (off.toNat + m)) n

/-! ## Numeric views -/

/-- `bytes[0..7]`: each word split into low byte then high byte (R177). -/
def bytesView (out : Factor) : List Byte :=
  [out[0].setWidth 8, (out[0] >>> 8).setWidth 8, out[1].setWidth 8, (out[1] >>> 8).setWidth 8,
    out[2].setWidth 8, (out[2] >>> 8).setWidth 8, out[3].setWidth 8, (out[3] >>> 8).setWidth 8]

/-- `words[0..3]`: the four words verbatim (R178). -/
def wordsView (out : Factor) : List Word := [out[0], out[1], out[2], out[3]]

/-- OUT01, `doubles[0]` (R28, R114, R179). -/
def out01 (out : Factor) : Word32 := out[0].setWidth 32 ||| out[1].setWidth 32 <<< 16

/-- OUT23, `doubles[1]` (R28, R115, R179). -/
def out23 (out : Factor) : Word32 := out[2].setWidth 32 ||| out[3].setWidth 32 <<< 16

/-- `doubles[0..1]` (R179). -/
def doublesView (out : Factor) : List Word32 := [out01 out, out23 out]

/-- `quad`: the four words packed little-endian, word 0 least significant (R180). -/
def quadView (out : Factor) : BitVec 64 :=
  out[0].setWidth 64 ||| out[1].setWidth 64 <<< 16 ||| out[2].setWidth 64 <<< 32 |||
    out[3].setWidth 64 <<< 48

end Sys2Proof.Machine
end

