-- ==== Sys2Proof/Machine/BusReads.lean ====
section
/-! DEFINITION. The register reads and the MSG read (40_host_interface.md R107 to R115). No read has
a side effect (R59): only the answer changes. -/

namespace Sys2Proof.Machine

/-- ID, the constant 0x4858_4F50 (R22). -/
def idWord : Word32 := 0x48584F50

/-- CAP, the constant MSG_CAP (R27). -/
def capWord : Word32 := BitVec.ofNat 32 Config.msgCap

/-- A read at byte `off` of the register of item `i` whose value is `v`: a misaligned read is a bus
error (R55, R57; log 20), else the selected bytes are answered. -/
def readRegister (i : Item) (v : Word32) (off : BitVec 2) (n : Size) (s : State) : State :=
  if aligned off.toNat n then s.answer (.readData (selectBytes v off n))
  else s.busError (.read (BitVec.ofNat 32 (itemBase i + off.toNat)) n)

/-- RD_ID (R108). -/
def execRdId (off : BitVec 2) (n : Size) (s : State) : Host.Outcome State Fault Refusal :=
  .next (readRegister .id idWord off n s)

/-- RD_CTRL (R109). -/
def execRdCtrl (off : BitVec 2) (n : Size) (s : State) : Host.Outcome State Fault Refusal :=
  .next (readRegister .ctrl s.ctrlWord off n s)

/-- RD_STATUS (R110). -/
def execRdStatus (off : BitVec 2) (n : Size) (s : State) : Host.Outcome State Fault Refusal :=
  .next (readRegister .status s.statusWord off n s)

/-- RD_CAUSE (R111). -/
def execRdCause (off : BitVec 2) (n : Size) (s : State) : Host.Outcome State Fault Refusal :=
  .next (readRegister .cause s.causeWord off n s)

/-- RD_LEN (R112). -/
def execRdLen (off : BitVec 2) (n : Size) (s : State) : Host.Outcome State Fault Refusal :=
  .next (readRegister .len s.len off n s)

/-- RD_CAP (R113). -/
def execRdCap (off : BitVec 2) (n : Size) (s : State) : Host.Outcome State Fault Refusal :=
  .next (readRegister .cap capWord off n s)

/-- RD_OUT01 (R114). -/
def execRdOut01 (off : BitVec 2) (n : Size) (s : State) : Host.Outcome State Fault Refusal :=
  .next (readRegister .out01 (out01 s.out) off n s)

/-- RD_OUT23 (R115). -/
def execRdOut23 (off : BitVec 2) (n : Size) (s : State) : Host.Outcome State Fault Refusal :=
  .next (readRegister .out23 (out23 s.out) off n s)

/-- RD_MSG (R107): a bus error where misaligned or past the window. -/
def execRdMsg (addr : Word32) (n : Size) (s : State) : Host.Outcome State Fault Refusal :=
  if aligned addr.toNat n && inMsgWindow addr.toNat n then
    .next (s.answer (.readData (assemble (fun k => s.msg.read (addr.toNat - msgBase + k)) n)))
  else .next (s.busError (.read addr n))

end Sys2Proof.Machine
end

