-- ==== Sys2Proof/Machine/BusWrites.lean ====
section
/-! DEFINITION. The bus writes of CTRL, STATUS, LEN and MSG, and BUS_ERR (40_host_interface.md R103
to R106, R117). A dropped write is acknowledged like any other (log 10). -/

namespace Sys2Proof.Machine

/-- The CTRL write: IE, then the command its data selects (R103). -/
def State.ctrlWrite (s : State) (data : Word32) : State :=
  if data[1] then (s.setIe data).clearCommand
  else if data[0] then (s.setIe data).startCommand
  else s.setIe data

/-- The LEN write; dropped while busy (R105). -/
def State.lenWrite (s : State) (data : Word32) : State :=
  if s.busy then s.dropWrite else { s with len := data }

/-- The MSG write at index i; dropped while busy (R106). -/
def State.msgWrite (s : State) (i : Nat) (n : Size) (data : Word32) : State :=
  if s.busy then s.dropWrite else { s with msg := s.msg.writeBytes i data n }

/-- WR_CTRL (R103). -/
def execWrCtrl (data : Word32) (s : State) : Host.Outcome State Fault Refusal :=
  .next ((s.ctrlWrite data).answer .writeDone)

/-- WR_STATUS (R104). -/
def execWrStatus (data : Word32) (s : State) : Host.Outcome State Fault Refusal :=
  .next ((s.statusWrite data).answer .writeDone)

/-- WR_LEN (R105). -/
def execWrLen (data : Word32) (s : State) : Host.Outcome State Fault Refusal :=
  .next ((s.lenWrite data).answer .writeDone)

/-- WR_MSG (R106): a bus error where misaligned or past the window. -/
def execWrMsg (addr : Word32) (n : Size) (data : Word32) (s : State) :
    Host.Outcome State Fault Refusal :=
  if aligned addr.toNat n && inMsgWindow addr.toNat n then
    .next ((s.msgWrite (addr.toNat - msgBase) n data).answer .writeDone)
  else .next (s.busError (.write addr n data))

/-- BUS_ERR (R117): no state changes, the bus-error response. -/
def execBusErr (t : Transaction) (s : State) : Host.Outcome State Fault Refusal :=
  .next (s.busError t)

end Sys2Proof.Machine
end

