-- ==== Sys2Proof/Machine/Commands.lean ====
section
/-! DEFINITION. The commands of a CTRL write: SETIE, START and CLEAR (40_host_interface.md R101 to
R103), each with the copy of data[2] into IE and the acknowledgement of the write (logs 10, 20, 21). -/

namespace Sys2Proof.Machine

/-- SETIE (R103): only IE changes. -/
def execSetie (data : Word32) (s : State) : Host.Outcome State Fault Refusal :=
  .next ((s.setIe data).answer .writeDone)

/-- START (R101, R103). -/
def execStart (data : Word32) (s : State) : Host.Outcome State Fault Refusal :=
  .next ((s.setIe data).startCommand.answer .writeDone)

/-- CLEAR (R102, R103). -/
def execClear (data : Word32) (s : State) : Host.Outcome State Fault Refusal :=
  .next ((s.setIe data).clearCommand.answer .writeDone)

end Sys2Proof.Machine
end

