-- ==== Sys2Proof/Machine/DigestReads.lean ====
section
/-! DEFINITION. The reads of the eight digest windows (40_host_interface.md R116, 45_digest.md R182
to R189). -/

namespace Sys2Proof.Machine

/-- A read at byte `off` of the window of base `b` (R116); misaligned, a bus error (R57). -/
def readDigest (b : Base) (off : BitVec 6) (n : Size) (s : State) : State :=
  if aligned off.toNat n then s.answer (.readData (selectDigest b s.out off n))
  else s.busError (.read (BitVec.ofNat 32 (itemBase (.digest b) + off.toNat)) n)

/-- RD_D60: window DIGEST_0, base 60 (R182). -/
def execRdD60 (off : BitVec 6) (n : Size) (s : State) : Host.Outcome State Fault Refusal :=
  .next (readDigest .b60 off n s)

/-- RD_D20: window DIGEST_1, base 20 (R183). -/
def execRdD20 (off : BitVec 6) (n : Size) (s : State) : Host.Outcome State Fault Refusal :=
  .next (readDigest .b20 off n s)

/-- RD_D16: window DIGEST_2, base 16 (R184). -/
def execRdD16 (off : BitVec 6) (n : Size) (s : State) : Host.Outcome State Fault Refusal :=
  .next (readDigest .b16 off n s)

/-- RD_D14: window DIGEST_3, base 14 (R185). -/
def execRdD14 (off : BitVec 6) (n : Size) (s : State) : Host.Outcome State Fault Refusal :=
  .next (readDigest .b14 off n s)

/-- RD_D12: window DIGEST_4, base 12 (R186). -/
def execRdD12 (off : BitVec 6) (n : Size) (s : State) : Host.Outcome State Fault Refusal :=
  .next (readDigest .b12 off n s)

/-- RD_D8: window DIGEST_5, base 8 (R187). -/
def execRdD8 (off : BitVec 6) (n : Size) (s : State) : Host.Outcome State Fault Refusal :=
  .next (readDigest .b8 off n s)

/-- RD_D6: window DIGEST_6, base 6 (R188). -/
def execRdD6 (off : BitVec 6) (n : Size) (s : State) : Host.Outcome State Fault Refusal :=
  .next (readDigest .b6 off n s)

/-- RD_D2: window DIGEST_7, base 2 (R189). -/
def execRdD2 (off : BitVec 6) (n : Size) (s : State) : Host.Outcome State Fault Refusal :=
  .next (readDigest .b2 off n s)

end Sys2Proof.Machine
end

