-- ==== Sys2Proof/Machine/Driver.lean ====
section
/-! DEFINITION. The driver's micro-ops IDLE and FINISH (44_driver.md). -/

namespace Sys2Proof.Machine

/-- IDLE (R160): the engine waits and changes no state (log 19). -/
def execIdle (s : State) : Host.Outcome State Fault Refusal := .next s

/-- FINISH (R163): publish the result, BUSY off, DONE on, back to IDLE. -/
def execFinish (s : State) : Host.Outcome State Fault Refusal :=
  .next { s with out := s.acc, busy := false, done := true, upc := upcIdle }

end Sys2Proof.Machine
end

