-- ==== Sys2Proof/Machine/Mixer.lean ====
section
/-! DEFINITION. The state initializer INIT and the portion mixer MIX (42_init_mixer.md). -/

namespace Sys2Proof.Machine

/-- `IV[0..3]` as a Factor (R130). -/
def ivFactor : Factor := #v[Config.iv 0, Config.iv 1, Config.iv 2, Config.iv 3]

/-- `NB <- (LEN + NT) / 64` (R130); in unbounded naturals, rounded down (log 15). -/
def blockCount (len : Word32) (nt : BitVec 6) : BitVec 32 :=
  BitVec.ofNat 32 ((len.toNat + nt.toNat) / 64)

/-- INIT (R130): seed the accumulator and the driver. -/
def execInit (s : State) : Host.Outcome State Fault Refusal :=
  .next { s with
    acc := ivFactor
    nb := blockCount s.len s.nt
    blk := 0
    ch := 0
    po := 0
    r := 0
    upc := upcMix }

/-- MIX (R131): absorb the current portion into the accumulator for round r. -/
def execMix (s : State) : Host.Outcome State Fault Refusal :=
  .next { s with acc := Config.portionMix s.acc s.portion s.r, upc := upcCapt }

end Sys2Proof.Machine
end

