-- ==== Sys2Proof/Machine/Padder.lean ====
section
/-! DEFINITION. The padder's micro-op PAD (41_padder.md). -/

namespace Sys2Proof.Machine

/-- PAD (R122): append one tail word, add it to n, count it, and go on until t reaches NT. Faults at
t = 63, where TAIL has no entry (log 14). -/
def execPad (s : State) : Host.Outcome State Fault Refusal :=
  if h : s.t.toNat < 63 then
    .next { s with
      tail := s.tail.set s.t.toNat s.padWord
      n := s.n + s.padWord.setWidth 64
      t := s.t + 1
      upc := if s.t + 1 = s.nt then upcInit else upcPad }
  else .fault .tailIndexOutOfRange

end Sys2Proof.Machine
end

