-- ==== Sys2Proof/Machine/Pipeline.lean ====
section
/-! DEFINITION. The round pipeline: CAPT, the alphabet stage, PRIME, SHUF and ADD
(43_round_pipeline.md R140 to R147). -/

namespace Sys2Proof.Machine

/-- CAPT (R140): capture the pre-pipeline accumulator. -/
def execCapt (s : State) : Host.Outcome State Fault Refusal :=
  .next { s with pre := s.acc, upc := upcAlpha }

/-- ALPHA (R141). -/
def execAlpha (s : State) : Host.Outcome State Fault Refusal :=
  .next { s with acc := Config.alpha s.acc, upc := upcDelta }

/-- DELTA (R142). -/
def execDelta (s : State) : Host.Outcome State Fault Refusal :=
  .next { s with acc := Config.delta s.acc, upc := upcTheta }

/-- THETA (R143). -/
def execTheta (s : State) : Host.Outcome State Fault Refusal :=
  .next { s with acc := Config.theta s.acc, upc := upcGamma }

/-- GAMMA (R144): q is reset here, so the prime stage starts at table index 0. -/
def execGamma (s : State) : Host.Outcome State Fault Refusal :=
  .next { s with acc := Config.gamma s.acc, q := 0, upc := upcPrime }

/-- One iteration of the prime-reduction stage on the accumulator, for round prime p: reduce every
word, then mix (R145). -/
def primeStage (a : Factor) (p : Word) : Factor := Config.primeMix (reduceFactor a p) p

/-- PRIME (R145): round prime q, then the next, or SHUF after the last. -/
def execPrime (s : State) : Host.Outcome State Fault Refusal :=
  if s.q.toNat = 89 then
    .next { s with acc := primeStage s.acc (Config.rprime s.q), q := 0, upc := upcShuf }
  else
    .next { s with acc := primeStage s.acc (Config.rprime s.q), q := s.q + 1, upc := upcPrime }

/-- SHUF (R146): the six pairwise swaps. -/
def execShuf (s : State) : Host.Outcome State Fault Refusal :=
  .next { s with acc := shuffle s.acc, upc := upcAdd }

/-- ADD (R147): reinject the pre-pipeline value, then ADVANCE in the same step (R162). -/
def execAdd (s : State) : Host.Outcome State Fault Refusal :=
  .next (State.advance { s with acc := addFactor s.pre s.acc })

end Sys2Proof.Machine
end

