-- ==== Sys2Proof/Machine/Dispatch.lean ====
section
/-! DEFINITION. The dispatch: one arm per row of the opcode table. -/

namespace Sys2Proof.Machine

def exec (i : Instr) (s : State) : Host.Outcome State Fault Refusal :=
  match i with
  | .idle => Sys2Proof.Machine.execIdle s
  | .pad => Sys2Proof.Machine.execPad s
  | .init => Sys2Proof.Machine.execInit s
  | .mix => Sys2Proof.Machine.execMix s
  | .capt => Sys2Proof.Machine.execCapt s
  | .alpha => Sys2Proof.Machine.execAlpha s
  | .delta => Sys2Proof.Machine.execDelta s
  | .theta => Sys2Proof.Machine.execTheta s
  | .gamma => Sys2Proof.Machine.execGamma s
  | .prime => Sys2Proof.Machine.execPrime s
  | .shuf => Sys2Proof.Machine.execShuf s
  | .add => Sys2Proof.Machine.execAdd s
  | .finish => Sys2Proof.Machine.execFinish s
  | .setie data => Sys2Proof.Machine.execSetie data s
  | .start data => Sys2Proof.Machine.execStart data s
  | .clear data => Sys2Proof.Machine.execClear data s
  | .rdId off n => Sys2Proof.Machine.execRdId off n s
  | .rdCtrl off n => Sys2Proof.Machine.execRdCtrl off n s
  | .wrCtrl data => Sys2Proof.Machine.execWrCtrl data s
  | .rdStatus off n => Sys2Proof.Machine.execRdStatus off n s
  | .wrStatus data => Sys2Proof.Machine.execWrStatus data s
  | .rdCause off n => Sys2Proof.Machine.execRdCause off n s
  | .rdLen off n => Sys2Proof.Machine.execRdLen off n s
  | .wrLen data => Sys2Proof.Machine.execWrLen data s
  | .rdCap off n => Sys2Proof.Machine.execRdCap off n s
  | .rdOut01 off n => Sys2Proof.Machine.execRdOut01 off n s
  | .rdOut23 off n => Sys2Proof.Machine.execRdOut23 off n s
  | .rdD60 off n => Sys2Proof.Machine.execRdD60 off n s
  | .rdD20 off n => Sys2Proof.Machine.execRdD20 off n s
  | .rdD16 off n => Sys2Proof.Machine.execRdD16 off n s
  | .rdD14 off n => Sys2Proof.Machine.execRdD14 off n s
  | .rdD12 off n => Sys2Proof.Machine.execRdD12 off n s
  | .rdD8 off n => Sys2Proof.Machine.execRdD8 off n s
  | .rdD6 off n => Sys2Proof.Machine.execRdD6 off n s
  | .rdD2 off n => Sys2Proof.Machine.execRdD2 off n s
  | .rdMsg addr n => Sys2Proof.Machine.execRdMsg addr n s
  | .wrMsg addr n data => Sys2Proof.Machine.execWrMsg addr n data s
  | .busErr t => Sys2Proof.Machine.execBusErr t s

end Sys2Proof.Machine
end

