-- ==== Sys2Proof/Machine/Sequencer.lean ====
section
/-! DEFINITION. What one turn does: the engine runs the micro-op in `upc` (30_encoding.md R71), the
host's command or transaction is decoded and runs (R70, R100), the reset input changes
(70_reset_and_hazards.md R220). -/

namespace Sys2Proof.Machine

/-- Decode and run; a reserved micro-op code is refused by name (R76). -/
def runEncoding (e : Encoding) (s : State) : Host.Outcome State Fault Refusal :=
  match decode e with
  | .ok i => exec i s
  | .error (.reservedMicroOp c) => .refused (.reservedMicroOp c)

/-- The engine's turn. While reset is asserted the engine takes no step (R220), so a reserved `upc` is
refused only with reset released (R76; DESIGN CHOICE, log 25). -/
def engineTurn (s : State) : Host.Outcome State Fault Refusal :=
  if s.rst then .next s else runEncoding (.micro s.upc) s

/-- The host's turn. While reset is asserted the block ignores it (R220), and nothing answers
(log 11). It runs whatever `upc` holds: a reserved code is refused at the engine's next turn (R76;
DESIGN CHOICE, log 25). -/
def hostTurn (e : Encoding) (s : State) : Host.Outcome State Fault Refusal :=
  if s.rst then .next { s with resp := none } else runEncoding e s

/-- One turn. -/
def takeTurn (e : Event) (s : State) : Host.Outcome State Fault Refusal :=
  match e with
  | .engine => engineTurn s
  | .command data => hostTurn (.command data) s
  | .bus t => hostTurn (.bus t) s
  | .rst asserted => .next (s.setRst asserted)

/-- The turn that makes the machine run `e` at its next step (log 17). -/
def eventOf : Encoding → Event
  | .micro _ => .engine
  | .command data => .command data
  | .bus t => .bus t

/-- Where the engine finds its next micro-op: `upc`. A command or a transaction brings its encoding
with its turn. -/
def State.placeEncoding (s : State) : Encoding → State
  | .micro op => { s with upc := op }
  | _ => s

end Sys2Proof.Machine
end

