-- ==== Sys2Proof/Machine/Step.lean ====
section
/-! DEFINITION. One step of the machine: the next turn of the schedule, and the engine's when none
is left (70_reset_and_hazards.md R233, logs 1 and 2). -/

namespace Sys2Proof.Machine

def step (s : State) : Host.Outcome State Fault Refusal :=
  match s.sched with
  | [] => engineTurn s
  | e :: rest => takeTurn e { s with sched := rest }

/-- `s` with a table number's instruction as the very next to run: its turn first in the schedule,
the reset input released, and for a micro-op its code in `upc`. -/
def State.withFetchWord (s : State) (nbits w : Nat) : State :=
  { s.placeEncoding (encodingOfTableWord nbits w) with
    rst := false
    sched := eventOf (encodingOfTableWord nbits w) :: s.sched }

end Sys2Proof.Machine
end

