-- ==== Sys2Proof/Machine/Reference.lean ====
section
/-! DEFINITION. The algorithm as functions, as the spec writes them beside the micro-ops: the padder
(41_padder.md R123), one round (43_round_pipeline.md R153) and the hash (44_driver.md R164). No
meaning calls these; statements compare the engine with them. -/

namespace Sys2Proof.Machine

/-- The loop of `Pad(m)` (R123): while the word list's length is no multiple of 64, append
`w[n mod L] ^ (n mod 256)` and add it to n. The fuel bounds the loop, which runs at most 63 times
(R124; log 18). -/
def padLoop (len : Nat) : Nat → List Word → Nat → List Word
  | 0, w, _ => w
  | fuel + 1, w, n =>
    if w.length % 64 = 0 then w
    else
      padLoop len fuel (w ++ [w.getD (n % len) 0 ^^^ BitVec.ofNat 16 (n % 256)])
        (n + (w.getD (n % len) 0 ^^^ BitVec.ofNat 16 (n % 256)).toNat)

/-- `Pad(m)` (R123). -/
def padMessage (m : List Byte) : List Word :=
  padLoop m.length 64 (m.map (fun b => b.setWidth 16)) m.length

/-- Stage 2 as a function: every round prime in table order (R153). -/
def primeStages (a : Factor) : Factor :=
  (List.range 90).foldl (fun x q => primeStage x (Config.rprime (BitVec.ofNat 7 q))) a

/-- `RoundPipeline(A)` (R153). -/
def roundPipeline (a : Factor) : Factor :=
  addFactor a
    (shuffle (primeStages (Config.gamma (Config.theta (Config.delta (Config.alpha a))))))

/-- The 31 rounds of one portion (R164). -/
def absorbPortion (a : Factor) (p : Portion) : Factor :=
  (List.range 31).foldl (fun x r => roundPipeline (Config.portionMix x p (BitVec.ofNat 5 r))) a

/-- `P = [W[base], W[base+1], W[base+2], W[base+3]]` (R164). -/
def streamPortion (w : List Word) (base : Nat) : Portion :=
  #v[w.getD base 0, w.getD (base + 1) 0, w.getD (base + 2) 0, w.getD (base + 3) 0]

/-- The 4 portions of one chunk in order (R164). -/
def absorbChunk (w : List Word) (base : Nat) (a : Factor) : Factor :=
  (List.range 4).foldl (fun x po => absorbPortion x (streamPortion w (base + 4 * po))) a

/-- The 4 chunks of one block in order (R164). -/
def absorbBlock (w : List Word) (base : Nat) (a : Factor) : Factor :=
  (List.range 4).foldl (fun x ch => absorbChunk w (base + 16 * ch) x) a

/-- The blocks of the padded stream in order, from IV (R164). -/
def absorbStream (w : List Word) : Factor :=
  (List.range (w.length / 64)).foldl (fun x blk => absorbBlock w (64 * blk) x) ivFactor

/-- `PoxHash(m)` (R164). -/
def poxHash (m : List Byte) : Factor := absorbStream (padMessage m)

/-- The message of a state: `MSG[0..LEN-1]` (R53). -/
def State.message (s : State) : List Byte := (List.range s.len.toNat).map s.msg.read

/-- The number of micro-op steps from START to IDLE (R165). -/
def hashSteps (len : Word32) : Nat :=
  (tailCount len).toNat + 2 + 48608 * ((len.toNat + (tailCount len).toNat) / 64)

end Sys2Proof.Machine
end

