-- ==== Sys2Proof/Safety.lean ====
section
/-! DEFINITION. What counts as a safe run, in the terms the statements use: the invariant of the
block, the stops, and what the engine reads. -/

namespace Sys2Proof.Machine

/-- Micro-ops of the portion loop, MIX to ADD. -/
abbrev inPortionLoop (u : BitVec 5) : Prop := 3 ≤ u.toNat ∧ u.toNat ≤ 11

/-- The invariant of the block. Each field cites the rule that says it. -/
structure State.Inv (s : State) : Prop where
  /-- `upc` holds no reserved code (R76). -/
  upc_code : s.upc.toNat ≤ 12
  /-- BUSY = 1 exactly when upc ≠ IDLE (R24). -/
  busy_iff : s.busy = true ↔ s.upc ≠ upcIdle
  /-- DONE and ERR are never both 1 (R24). -/
  done_err : ¬(s.done = true ∧ s.err = true)
  /-- START clears DONE and ERR, and nothing sets them before FINISH (R104). -/
  busy_flags : s.busy = true → s.done = false ∧ s.err = false
  /-- ERR is 1 exactly when a cause is recorded (R201, R203, R207). -/
  err_cause : s.err = true ↔ s.cause ≠ 0
  /-- The CAUSE code 3 is never produced (R77). -/
  cause_code : s.cause ≠ 3
  /-- The round index is a round (R32). -/
  round_range : s.r.toNat ≤ 30
  /-- The round-prime index is in the table (R32, R68). -/
  prime_range : s.q.toNat ≤ 89
  /-- q counts inside the PRIME stage only (R145). -/
  prime_idle : s.upc ≠ upcPrime → s.q = 0
  /-- A running hash has a legal length (R101, R127). -/
  busy_len : s.busy = true → 1 ≤ s.len.toNat ∧ s.len.toNat ≤ Config.msgCap
  /-- A running hash has the tail count of its length (R101, R124). -/
  busy_tail : s.busy = true → s.nt = tailCount s.len
  /-- While padding, tail words are still missing (R122). -/
  pad_count : s.upc = upcPad → s.t.toNat < s.nt.toNat
  /-- After padding, none is missing (R122). -/
  padded_count : s.busy = true → s.upc ≠ upcPad → s.t = s.nt
  /-- The padder's counter stays in its range (R126). -/
  pad_counter : s.busy = true →
    s.len.toNat ≤ s.n.toNat ∧ s.n.toNat ≤ s.len.toNat + 255 * s.t.toNat
  /-- Every tail word produced so far is below 256 (R125). -/
  tail_range : s.busy = true → ∀ j (h : j < 63), j < s.t.toNat → s.tail[j].toNat < 256
  /-- After INIT, NB is the number of blocks (R130, R124). -/
  block_count : s.busy = true → s.upc ≠ upcPad → s.upc ≠ upcInit →
    64 * s.nb.toNat = s.len.toNat + s.nt.toNat
  /-- In the portion loop the block index is a block (R32). -/
  block_range : inPortionLoop s.upc → s.blk.toNat < s.nb.toNat
  /-- The memory keeps its canonical form. -/
  msg_wf : s.msg.wf
  /-- MSG holds MSG_CAP bytes (R53). -/
  msg_window : ∀ c ∈ s.msg.cells, c.1 < Config.msgCap

/-- The turn is the host's: a command or a bus transaction (R70, R100). -/
def Event.isHost : Event → Bool
  | .command _ => true
  | .bus _ => true
  | .engine => false
  | .rst _ => false

/-- The host program has issued its last transaction (R234): no turn still to come is the host's. -/
def State.hostDone (s : State) : Prop := ∀ e ∈ s.sched, e.isHost = false

/-- The end of a run (R234): the host has issued its last transaction, and the engine is in IDLE. Turns
of the engine and changes of the reset input may still be left. -/
def State.ended (s : State) : Prop := s.hostDone ∧ s.upc = upcIdle ∧ s.busy = false

/-- The step goes on: neither a fault nor a refusal. -/
def State.goesOn (s : State) : Prop := ∃ t, step s = .next t

/-- Everything the engine reads or writes, apart from the flags (R80): two states that agree here
run the same micro-ops on the same values. -/
structure EngineView where
  upc : BitVec 5
  acc : Factor
  pre : Factor
  tail : Vector Word 63
  blk : BitVec 32
  ch : BitVec 2
  po : BitVec 2
  r : BitVec 5
  q : BitVec 7
  t : BitVec 6
  nt : BitVec 6
  nb : BitVec 32
  n : BitVec 64
  len : Word32
  msg : Memory
deriving DecidableEq, Repr

def State.engineView (s : State) : EngineView where
  upc := s.upc
  acc := s.acc
  pre := s.pre
  tail := s.tail
  blk := s.blk
  ch := s.ch
  po := s.po
  r := s.r
  q := s.q
  t := s.t
  nt := s.nt
  nb := s.nb
  n := s.n
  len := s.len
  msg := s.msg

/-- The turn is a read: a transaction the host reads with (R75). -/
def Event.isRead : Event → Bool
  | .bus (.read _ _) => true
  | _ => false

/-- The turn is a CLEAR: as a command, or as the CTRL write that selects it (R74). -/
def Event.isClear : Event → Bool
  | .command data => data[1]
  | .bus (.write a n data) => a == 4 && n == .four && data[1]
  | _ => false

/-- The turn changes the reset input. -/
def Event.isReset : Event → Bool
  | .rst _ => true
  | _ => false

end Sys2Proof.Machine
end

