-- ==== Sys2Proof/Certificates/Slice0/Obligations.lean ====
section
/-! DEFINITION. The statements for the provers. `t = { s with f := t.f, … }` says that t differs from
s in the named fields at most: the frame. Numbers of addresses, codes and bits are written out from
the spec, not taken from the model's own tables. -/

open Sys2Proof Sys2Proof.Machine

/-! ## Encoding -/

/-- Decoding the encoding of a well-formed instruction gives it back, every operand kept (formats
R70 to R75). -/
def Obligations.DecodeOfEncodeIsTheInstruction : Prop :=
  ∀ i : Instr, WellFormed i → decode (encode i) = .ok i

/-- Every encoding that decodes has one reading: it is a well-formed instruction, whose encoding it
is (R70 to R75). -/
def Obligations.EncodeOfDecodeIsTheEncoding : Prop :=
  ∀ (e : Encoding) (i : Instr), decode e = .ok i → WellFormed i ∧ encode i = e

/-- A few words written out from the spec's tables decode to their instructions (R72, R74, R75). -/
def Obligations.SampleWordsDecode : Prop :=
  decode (.micro 0b00001) = .ok .pad ∧
  decode (.micro 0b01001) = .ok .prime ∧
  decode (.command 0b101) = .ok (.start 0b101) ∧
  decode (.command 0b011) = .ok (.clear 0b011) ∧
  decode (.bus (.write 0x00000004 .four 0x1)) = .ok (.wrCtrl 0x1) ∧
  decode (.bus (.read 0x00000019 .one)) = .ok (.rdOut01 1 .one) ∧
  decode (.bus (.read 0x0000018C .four)) = .ok (.rdD16 0xC .four) ∧
  decode (.bus (.write 0x00000004 .one 0x1)) = .ok (.busErr (.write 0x00000004 .one 0x1))

/-- R72: the micro-op codes, and no others. -/
def Obligations.MicroOpCodesDecode : Prop :=
  ∀ c : BitVec 5,
    (c.toNat ≤ 0x0C →
      [Instr.idle, .pad, .init, .mix, .capt, .alpha, .delta, .theta, .gamma, .prime, .shuf, .add,
        .finish][c.toNat]? = (decode (.micro c)).toOption ∧ (decode (.micro c)).toOption.isSome) ∧
    (0x0D ≤ c.toNat → decode (.micro c) = .error (.reservedMicroOp c))

/-- From R76: a state whose `upc` holds 0x0D to 0x1F is refused when the engine moves, and no
instruction, turn or reset writes such a code. (R76 says "refuse a state"; that the refusal comes at
the engine's turn, not at a host's, is the model's choice, log 25.) -/
def Obligations.ReservedMicroOpsRefusedAndNeverWritten : Prop :=
  (∀ s : State, 0x0D ≤ s.upc.toNat → s.rst = false →
    (s.sched = [] ∨ ∃ rest, s.sched = .engine :: rest) →
      step s = .refused (.reservedMicroOp s.upc)) ∧
  (∀ (i : Instr) (s t : State), exec i s = .next t → s.upc.toNat ≤ 0x0C → t.upc.toNat ≤ 0x0C) ∧
  (∀ (s : State) (b : Bool), s.upc.toNat ≤ 0x0C → (s.setRst b).upc.toNat ≤ 0x0C) ∧
  State.reset.upc.toNat ≤ 0x0C

/-- R75: the address table of the bus, row by row, and BUS_ERR for every transaction no row takes:
unmapped, past MSG, misaligned, or a write to a read-only item or of a narrow width (R78). -/
def Obligations.BusTransactionsDecodeByTheTable : Prop :=
  (∀ (off : BitVec 2) (n : Size), off.toNat % bytesOf n = 0 →
    decode (.bus (.read (0x000 + off.setWidth 32) n)) = .ok (.rdId off n) ∧
    decode (.bus (.read (0x004 + off.setWidth 32) n)) = .ok (.rdCtrl off n) ∧
    decode (.bus (.read (0x008 + off.setWidth 32) n)) = .ok (.rdStatus off n) ∧
    decode (.bus (.read (0x00C + off.setWidth 32) n)) = .ok (.rdCause off n) ∧
    decode (.bus (.read (0x010 + off.setWidth 32) n)) = .ok (.rdLen off n) ∧
    decode (.bus (.read (0x014 + off.setWidth 32) n)) = .ok (.rdCap off n) ∧
    decode (.bus (.read (0x018 + off.setWidth 32) n)) = .ok (.rdOut01 off n) ∧
    decode (.bus (.read (0x01C + off.setWidth 32) n)) = .ok (.rdOut23 off n)) ∧
  (∀ (off : BitVec 6) (n : Size), off.toNat % bytesOf n = 0 →
    decode (.bus (.read (0x100 + off.setWidth 32) n)) = .ok (.rdD60 off n) ∧
    decode (.bus (.read (0x140 + off.setWidth 32) n)) = .ok (.rdD20 off n) ∧
    decode (.bus (.read (0x180 + off.setWidth 32) n)) = .ok (.rdD16 off n) ∧
    decode (.bus (.read (0x1C0 + off.setWidth 32) n)) = .ok (.rdD14 off n) ∧
    decode (.bus (.read (0x200 + off.setWidth 32) n)) = .ok (.rdD12 off n) ∧
    decode (.bus (.read (0x240 + off.setWidth 32) n)) = .ok (.rdD8 off n) ∧
    decode (.bus (.read (0x280 + off.setWidth 32) n)) = .ok (.rdD6 off n) ∧
    decode (.bus (.read (0x2C0 + off.setWidth 32) n)) = .ok (.rdD2 off n)) ∧
  (∀ d : Word32,
    decode (.bus (.write 0x004 .four d)) = .ok (.wrCtrl d) ∧
    decode (.bus (.write 0x008 .four d)) = .ok (.wrStatus d) ∧
    decode (.bus (.write 0x010 .four d)) = .ok (.wrLen d)) ∧
  (∀ (a : Word32) (n : Size) (d : Word32), a.toNat % bytesOf n = 0 → 0x1000 ≤ a.toNat →
    a.toNat + bytesOf n ≤ 0x1000 + Config.msgCap →
      decode (.bus (.read a n)) = .ok (.rdMsg a n) ∧
      decode (.bus (.write a n d)) = .ok (.wrMsg a n d)) ∧
  (∀ (a : Word32) (n : Size),
    decode (.bus (.read a n)) = .ok (.busErr (.read a n)) ↔
      a.toNat % bytesOf n ≠ 0 ∨
      (0x020 ≤ a.toNat ∧ a.toNat < 0x100) ∨ (0x300 ≤ a.toNat ∧ a.toNat < 0x1000) ∨
      (0x1000 ≤ a.toNat ∧ 0x1000 + Config.msgCap < a.toNat + bytesOf n)) ∧
  (∀ (a : Word32) (n : Size) (d : Word32),
    decode (.bus (.write a n d)) = .ok (.busErr (.write a n d)) ↔
      a.toNat % bytesOf n ≠ 0 ∨
      (0x020 ≤ a.toNat ∧ a.toNat < 0x100) ∨ (0x300 ≤ a.toNat ∧ a.toNat < 0x1000) ∨
      (0x1000 ≤ a.toNat ∧ 0x1000 + Config.msgCap < a.toNat + bytesOf n) ∨
      a.toNat < 0x004 ∨ (0x00C ≤ a.toNat ∧ a.toNat < 0x010) ∨
      (0x014 ≤ a.toNat ∧ a.toNat < 0x020) ∨ (0x100 ≤ a.toNat ∧ a.toNat < 0x300) ∨
      (n ≠ .four ∧ ((0x004 ≤ a.toNat ∧ a.toNat < 0x00C) ∨
        (0x010 ≤ a.toNat ∧ a.toNat < 0x014))))

/-! ## Steps -/

/-- The engine's turn runs the micro-op whose code is in `upc` (R71): also when no turn is left
(log 1). -/
def Obligations.EngineTurnRunsTheMicroOpInUpc : Prop :=
  ∀ (s : State) (i : Instr), s.rst = false → decode (.micro s.upc) = .ok i →
    (s.sched = [] → step s = exec i s) ∧
    (∀ rest, s.sched = .engine :: rest → step s = exec i { s with sched := rest })

/-- The host's turn runs the instruction its transaction, or its command, decodes to (R70, R100). -/
def Obligations.HostTurnRunsTheDecodedTransaction : Prop :=
  ∀ (s : State) (rest : List Event) (i : Instr), s.rst = false →
    (∀ t, s.sched = .bus t :: rest → decode (.bus t) = .ok i →
      step s = exec i { s with sched := rest }) ∧
    (∀ d, s.sched = .command d :: rest → decode (.command d) = .ok i →
      step s = exec i { s with sched := rest })

/-- A table word placed where the machine takes its next instruction is what the next step runs
(the model's choice of a place for a bare number: log 16). -/
def Obligations.PlacedTableWordRunsNext : Prop :=
  ∀ (s : State) (nbits w : Nat) (i : Instr), decodeTableWord nbits w = some i →
    step (s.withFetchWord nbits w) =
      exec i { s.withFetchWord nbits w with sched := s.sched }

/-- R220: while `rst` is asserted the engine takes no step and host transactions are ignored. (That
nothing answers an ignored one is the model's choice, log 11.) -/
def Obligations.AssertedResetFreezesTheBlock : Prop :=
  ∀ s : State, s.rst = true →
    (s.sched = [] → step s = .next s) ∧
    (∀ rest, s.sched = .engine :: rest → step s = .next { s with sched := rest }) ∧
    (∀ t rest, s.sched = .bus t :: rest → step s = .next { s with sched := rest, resp := none }) ∧
    (∀ d rest, s.sched = .command d :: rest →
      step s = .next { s with sched := rest, resp := none })

/-! ## Reset -/

/-- R221: the reset values, in the state right after reset and after a reset that arrives at any
step, the block busy or not; the base-16 digest then reads sixteen times the character 0. -/
def Obligations.ResetLeavesTheResetValues : Prop :=
  let resetValues : State → Prop := fun t =>
    t.ie = false ∧ t.busy = false ∧ t.done = false ∧ t.err = false ∧ t.werr = false ∧
    t.irq = false ∧ t.cause = 0 ∧ t.len = 0 ∧
    (∀ k : Fin 4, t.out[k] = 0 ∧ t.acc[k] = 0 ∧ t.pre[k] = 0) ∧
    t.upc = 0x00 ∧ t.blk = 0 ∧ t.ch = 0 ∧ t.po = 0 ∧ t.r = 0 ∧ t.q = 0 ∧ t.t = 0 ∧ t.nt = 0 ∧
    t.nb = 0 ∧ t.n = 0 ∧ digestString .b16 t.out = List.replicate 16 0x30
  resetValues State.reset ∧
  ∀ (s : State) (rest : List Event), s.sched = .rst true :: .rst false :: rest →
    ∃ t, Sys2Proof.core.run 2 s = .next t ∧ resetValues t ∧ t.sched = rest

/-- R223: CLEAR and reset leave the same values, but for IE, LEN and MSG (and TAIL, which reset
leaves unspecified). -/
def Obligations.ClearDiffersFromResetInIeLenMsgOnly : Prop :=
  ∀ (s : State) (d : Word32), d[1] = true →
    ∃ t, exec (.clear d) s = .next t ∧
      t = { (s.setRst true).setRst false with
        ie := d[2], len := s.len, msg := s.msg, tail := s.tail, rst := s.rst
        resp := t.resp }

/-! ## Invariants -/

/-- The invariant holds right after reset. -/
def Obligations.InvariantHoldsAtReset : Prop := State.reset.Inv

/-- Every step keeps the invariant, from every state that meets it and for every turn. -/
def Obligations.StepKeepsTheInvariant : Prop :=
  ∀ s t : State, s.Inv → step s = .next t → t.Inv

/-- No state that meets the invariant stops: every turn has a next state. The machine has two stops,
both in states no run reaches: a reserved `upc` (R76), and PAD at t = 63, where TAIL has no entry
(the model's choice, log 14). -/
def Obligations.InvariantStatesGoOn : Prop :=
  (∀ s : State, s.Inv → s.goesOn) ∧
  (∀ s : State, s.t.toNat = 63 → exec .pad s = .fault .tailIndexOutOfRange) ∧
  (∀ (s : State) (f : Fault), step s = .fault f →
    f = .tailIndexOutOfRange ∧ s.upc = 0x01 ∧ s.t.toNat = 63) ∧
  (∀ (s : State) (f : Refusal), step s = .refused f →
    f = .reservedMicroOp s.upc ∧ 0x0D ≤ s.upc.toNat)

/-- Every step keeps the memory's canonical form, whatever else the state holds. -/
def Obligations.StepKeepsTheMemoryForm : Prop :=
  ∀ s t : State, s.msg.wf → step s = .next t → t.msg.wf

/-- R234 with R160: outside reset, a run has ended exactly where no turn of the host is left and the
engine's turn changes nothing; turns of the engine and changes of rst may be left. A state with
BUSY = 1 is not final. A run that has ended stays ended, whatever is left, and turns of the engine only
use themselves up. -/
def Obligations.RunsEndExactlyAtRest : Prop :=
  ∀ s : State,
    (s.busy = true → ¬s.ended) ∧
    (s.ended → ∀ k, ∃ t, Sys2Proof.core.run k s = .next t ∧ t.ended) ∧
    (s.ended → (∀ e ∈ s.sched, e = .engine) →
      ∀ k, Sys2Proof.core.run k s = .next { s with sched := s.sched.drop k }) ∧
    (s.Inv → s.rst = false →
      (s.ended ↔ (∀ e ∈ s.sched, e = .engine ∨ ∃ b, e = .rst b) ∧
        step { s with sched := [] } = .next { s with sched := [] }))

/-! ## Commands -/

/-- R101, its checks in order: START dropped while busy, refused for L = 0 and for L > MSG_CAP,
accepted otherwise; in each case every other field is unchanged. What the bus answers is left open
(log 10). -/
def Obligations.StartFollowsItsChecks : Prop :=
  ∀ (s : State) (d : Word32), ∃ t, exec (.start d) s = .next t ∧
    (s.busy = true → t = { s with ie := d[2], werr := true, resp := t.resp }) ∧
    (s.busy = false → s.len.toNat = 0 →
      t = { s with
        ie := d[2], done := false, err := true, werr := false, cause := 1, resp := t.resp }) ∧
    (s.busy = false → Config.msgCap < s.len.toNat →
      t = { s with
        ie := d[2], done := false, err := true, werr := false, cause := 2, resp := t.resp }) ∧
    (s.busy = false → 1 ≤ s.len.toNat → s.len.toNat ≤ Config.msgCap →
      t = { s with
        ie := d[2], done := false, err := false, werr := false, cause := 0
        busy := true, t := 0, n := t.n, nt := t.nt, upc := t.upc, resp := t.resp } ∧
      t.n.toNat = s.len.toNat ∧ t.nt.toNat = (64 - s.len.toNat % 64) % 64 ∧
      (t.nt.toNat ≠ 0 → t.upc = 0x01) ∧ (t.nt.toNat = 0 → t.upc = 0x02))

/-- R102: CLEAR, from every state; IE comes from data[2], LEN, MSG and TAIL are unchanged. -/
def Obligations.ClearReturnsToIdle : Prop :=
  ∀ (s : State) (d : Word32),
    ∃ t, exec (.clear d) s = .next t ∧
      t.upc = 0x00 ∧ t.busy = false ∧ t.done = false ∧ t.err = false ∧ t.werr = false ∧
      t.cause = 0 ∧ (∀ k : Fin 4, t.acc[k] = 0 ∧ t.pre[k] = 0 ∧ t.out[k] = 0) ∧
      t.n = 0 ∧ t.t = 0 ∧ t.nt = 0 ∧ t.nb = 0 ∧ t.blk = 0 ∧ t.ch = 0 ∧ t.po = 0 ∧ t.r = 0 ∧
      t.q = 0 ∧ t.ie = d[2] ∧ t.len = s.len ∧ t.msg = s.msg ∧ t.tail = s.tail ∧
      t.rst = s.rst ∧ t.sched = s.sched

/-- R103 and R74: a CTRL write copies data[2] into IE, in every case, and performs what the command
of its pattern `data & 0x3` performs: CLEAR for 2 and 3, START for 1, and for 0 nothing more (SETIE).
A narrow write is a bus error. -/
def Obligations.CtrlWriteSelectsTheCommand : Prop :=
  ∀ (s : State) (d : Word32),
    ∃ t, exec (.wrCtrl d) s = .next t ∧ t.ie = d[2] ∧
      (d.toNat % 4 = 0 →
        decode (.command d) = .ok (.setie d) ∧ exec (.setie d) s = .next t ∧
        t = { s with ie := t.ie, resp := t.resp }) ∧
      (d.toNat % 4 = 1 → decode (.command d) = .ok (.start d) ∧ exec (.start d) s = .next t) ∧
      (2 ≤ d.toNat % 4 → decode (.command d) = .ok (.clear d) ∧ exec (.clear d) s = .next t) ∧
      (∀ n, n ≠ .four → decode (.bus (.write 0x004 n d)) = .ok (.busErr (.write 0x004 n d)))

/-- R103: SETIE changes only IE, and completes in every state, busy or not. -/
def Obligations.SetieChangesOnlyIe : Prop :=
  ∀ (s : State) (d : Word32), ∃ t, exec (.setie d) s = .next t ∧
    t = { s with ie := t.ie, resp := t.resp } ∧ t.ie = d[2]

/-! ## Register and message writes -/

/-- R104: a STATUS write clears DONE, ERR with CAUSE, and WERR where its bit 1, 2, 3 is 1, and
nothing else; a narrow write is a bus error. -/
def Obligations.StatusWriteClearsOnes : Prop :=
  ∀ (s : State) (d : Word32), ∃ t, exec (.wrStatus d) s = .next t ∧
    t = { s with done := t.done, err := t.err, cause := t.cause, werr := t.werr
                 resp := t.resp } ∧
    t.done = (s.done && !d[1]) ∧ t.err = (s.err && !d[2]) ∧
    t.cause = (if d[2] then 0 else s.cause) ∧ t.werr = (s.werr && !d[3]) ∧
    (∀ n, n ≠ .four → decode (.bus (.write 0x008 n d)) = .ok (.busErr (.write 0x008 n d)))

/-- R105: a LEN write is dropped with WERR while busy, else stores every 32-bit value; a narrow
write is a bus error. -/
def Obligations.LenWriteStoresOrDrops : Prop :=
  ∀ (s : State) (d : Word32), ∃ t, exec (.wrLen d) s = .next t ∧
    (s.busy = true → t = { s with werr := true, resp := t.resp }) ∧
    (s.busy = false → t = { s with len := d, resp := t.resp }) ∧
    (∀ n, n ≠ .four → decode (.bus (.write 0x010 n d)) = .ok (.busErr (.write 0x010 n d)))

/-- R106: an MSG write is a bus error where misaligned or past the window, dropped with WERR while
busy, and otherwise stores data[8k+7:8k] at MSG[addr - 0x1000 + k] and leaves every other byte. -/
def Obligations.MsgWriteStoresItsBytes : Prop :=
  ∀ (s : State) (a : Word32) (n : Size) (d : Word32), s.msg.wf →
    (a.toNat % bytesOf n ≠ 0 ∨ a.toNat < 0x1000 ∨ 0x1000 + Config.msgCap < a.toNat + bytesOf n →
      exec (.wrMsg a n d) s = .next { s with resp := some .writeError }) ∧
    (a.toNat % bytesOf n = 0 → 0x1000 ≤ a.toNat → a.toNat + bytesOf n ≤ 0x1000 + Config.msgCap →
      (s.busy = true →
        ∃ t, exec (.wrMsg a n d) s = .next t ∧ t = { s with werr := true, resp := t.resp }) ∧
      (s.busy = false →
        ∃ t, exec (.wrMsg a n d) s = .next t ∧
          t = { s with msg := t.msg, resp := t.resp } ∧ t.msg.wf ∧
          (∀ k, k < bytesOf n →
            (t.msg.read (a.toNat - 0x1000 + k)).toNat = d.toNat / 2 ^ (8 * k) % 256) ∧
          (∀ i, i < a.toNat - 0x1000 ∨ a.toNat - 0x1000 + bytesOf n ≤ i →
            t.msg.read i = s.msg.read i)))

/-- R61, with R106 and R107: an aligned read inside the bytes of an earlier aligned write, of any
width, returns those bytes of the written data, little-endian. -/
def Obligations.MsgReadReturnsTheBytesWritten : Prop :=
  ∀ (s : State) (a a' : Word32) (n n' : Size) (d : Word32) (rest : List Event),
    s.msg.wf → s.rst = false → s.busy = false →
    a.toNat % bytesOf n = 0 → 0x1000 ≤ a.toNat → a.toNat + bytesOf n ≤ 0x1000 + Config.msgCap →
    a'.toNat % bytesOf n' = 0 → a.toNat ≤ a'.toNat →
    a'.toNat + bytesOf n' ≤ a.toNat + bytesOf n →
    s.sched = .bus (.write a n d) :: .bus (.read a' n') :: rest →
      ∃ t v, Sys2Proof.core.run 2 s = .next t ∧ t.resp = some (.readData v) ∧
        v.toNat = d.toNat / 2 ^ (8 * (a'.toNat - a.toNat)) % 2 ^ (8 * bytesOf n') ∧
        t = { s with msg := t.msg, resp := t.resp, sched := rest }

/-! ## Reads -/

/-- R107: an MSG read inside the window answers `sum over k < size of MSG[addr-0x1000+k] << 8k`,
busy or not; misaligned or past the window it is a bus error with data 0. -/
def Obligations.MsgReadSumsItsBytes : Prop :=
  ∀ (s : State) (a : Word32) (n : Size),
    (a.toNat % bytesOf n = 0 → 0x1000 ≤ a.toNat → a.toNat + bytesOf n ≤ 0x1000 + Config.msgCap →
      ∃ v : Word32, exec (.rdMsg a n) s = .next { s with resp := some (.readData v) } ∧
        v.toNat = ((List.range (bytesOf n)).map fun k =>
          (s.msg.read (a.toNat - 0x1000 + k)).toNat * 2 ^ (8 * k)).sum) ∧
    (a.toNat % bytesOf n ≠ 0 ∨ a.toNat < 0x1000 ∨ 0x1000 + Config.msgCap < a.toNat + bytesOf n →
      exec (.rdMsg a n) s = .next { s with resp := some (.readError 0) })

/-- R108 to R115: an aligned read at a register's address answers the selected bytes of the register's
value; the value of STATUS is BUSY + 2·DONE + 4·ERR + 8·WERR + 16·(IE & (DONE | ERR)). -/
def Obligations.RegisterReadsAnswerTheirBytes : Prop :=
  ∀ (s : State) (off : BitVec 2) (n : Size), off.toNat % bytesOf n = 0 →
    let answers : Word32 → Instr → Nat → Prop := fun base i value =>
      decode (.bus (.read (base + off.setWidth 32) n)) = .ok i ∧
      ∃ v : Word32, exec i s = .next { s with resp := some (.readData v) } ∧
        v.toNat = value / 2 ^ (8 * off.toNat) % 2 ^ (8 * bytesOf n)
    answers 0x000 (.rdId off n) 0x48584F50 ∧
    answers 0x004 (.rdCtrl off n) (4 * s.ie.toNat) ∧
    answers 0x008 (.rdStatus off n) (s.busy.toNat + 2 * s.done.toNat + 4 * s.err.toNat +
      8 * s.werr.toNat + 16 * (s.ie && (s.done || s.err)).toNat) ∧
    answers 0x00C (.rdCause off n) s.cause.toNat ∧
    answers 0x010 (.rdLen off n) s.len.toNat ∧
    answers 0x014 (.rdCap off n) Config.msgCap ∧
    answers 0x018 (.rdOut01 off n) (s.out[0].toNat + 2 ^ 16 * s.out[1].toNat) ∧
    answers 0x01C (.rdOut23 off n) (s.out[2].toNat + 2 ^ 16 * s.out[3].toNat)

/-- R116: an aligned read at the address of a digest window answers the sum of its bytes; byte w·W_B + j of the window is
`ALPH_B[d]` for the j-th base-B digit d of OUT[w], the most significant first, and 0 past the
string (R29, R172, R174). -/
def Obligations.DigestReadsAnswerTheirCharacters : Prop :=
  (∀ (s : State) (off : BitVec 6) (n : Size), off.toNat % bytesOf n = 0 →
    let answers : Word32 → Instr → Base → Prop := fun base i b =>
      decode (.bus (.read (base + off.setWidth 32) n)) = .ok i ∧
      ∃ v : Word32, exec i s = .next { s with resp := some (.readData v) } ∧
        v.toNat = ((List.range (bytesOf n)).map fun m =>
          (digestByte b s.out (off.toNat + m)).toNat * 2 ^ (8 * m)).sum
    answers 0x100 (.rdD60 off n) .b60 ∧ answers 0x140 (.rdD20 off n) .b20 ∧
    answers 0x180 (.rdD16 off n) .b16 ∧ answers 0x1C0 (.rdD14 off n) .b14 ∧
    answers 0x200 (.rdD12 off n) .b12 ∧ answers 0x240 (.rdD8 off n) .b8 ∧
    answers 0x280 (.rdD6 off n) .b6 ∧ answers 0x2C0 (.rdD2 off n) .b2) ∧
  (∀ (b : Base) (out : Factor),
    (∀ (w : Fin 4) (j : Nat), j < digitCount b →
      some (digestByte b out (w.val * digitCount b + j)) =
        (Config.alphabet b)[out[w].toNat / Config.radix b ^ (digitCount b - 1 - j) %
          Config.radix b]?) ∧
    (∀ x, 4 * digitCount b ≤ x → digestByte b out x = 0))

/-- R57, R205: a register or digest read that is not naturally aligned answers the bus error with data
0 and changes nothing. -/
def Obligations.MisalignedReadsAreBusErrors : Prop :=
  ∀ (s : State) (n : Size),
    (∀ off : BitVec 2, off.toNat % bytesOf n ≠ 0 →
      ∀ i ∈ [Instr.rdId off n, .rdCtrl off n, .rdStatus off n, .rdCause off n, .rdLen off n,
        .rdCap off n, .rdOut01 off n, .rdOut23 off n],
        exec i s = .next { s with resp := some (.readError 0) }) ∧
    (∀ off : BitVec 6, off.toNat % bytesOf n ≠ 0 →
      ∀ i ∈ [Instr.rdD60 off n, .rdD20 off n, .rdD16 off n, .rdD14 off n, .rdD12 off n,
        .rdD8 off n, .rdD6 off n, .rdD2 off n],
        exec i s = .next { s with resp := some (.readError 0) })

/-- R59: no host read has a side effect, and every read is idempotent: two reads with no step
between them return equal values. -/
def Obligations.HostReadsHaveNoSideEffect : Prop :=
  ∀ (s : State) (a : Word32) (n : Size) (rest : List Event), s.rst = false →
    s.sched = .bus (.read a n) :: .bus (.read a n) :: rest →
      ∃ v, step s = .next { s with resp := some v, sched := .bus (.read a n) :: rest } ∧
        Sys2Proof.core.run 2 s = .next { s with resp := some v, sched := rest }

/-- R40: the host never sees ACC, PRE, TAIL, the counters or upc: a read answers the same in two
states that agree on the host-visible registers and on MSG. -/
def Obligations.HostReadsDependOnVisibleStateOnly : Prop :=
  ∀ (s s' t t' : State) (a : Word32) (n : Size) (rest rest' : List Event),
    s.rst = false → s'.rst = false →
    s.ie = s'.ie → s.busy = s'.busy → s.done = s'.done → s.err = s'.err → s.werr = s'.werr →
    s.cause = s'.cause → s.len = s'.len → s.out = s'.out → s.msg = s'.msg →
    s.sched = .bus (.read a n) :: rest → s'.sched = .bus (.read a n) :: rest' →
    step s = .next t → step s' = .next t' → t.resp = t'.resp ∧ t.resp.isSome

/-! ## Bus errors -/

/-- R117 with R205: BUS_ERR changes no state; it answers the bus-error response, a read with data 0. -/
def Obligations.BusErrorChangesNothing : Prop :=
  ∀ (s : State) (a : Word32) (n : Size) (d : Word32) (rest : List Event),
    exec (.busErr (.read a n)) s = .next { s with resp := some (.readError 0) } ∧
    exec (.busErr (.write a n d)) s = .next { s with resp := some .writeError } ∧
    (s.rst = false → decode (.bus (.read a n)) = .ok (.busErr (.read a n)) →
      s.sched = .bus (.read a n) :: rest →
      step s = .next { s with resp := some (.readError 0), sched := rest }) ∧
    (s.rst = false → decode (.bus (.write a n d)) = .ok (.busErr (.write a n d)) →
      s.sched = .bus (.write a n d) :: rest →
      step s = .next { s with resp := some .writeError, sched := rest })

/-! ## Micro-ops -/

/-- R160: an idle engine changes no state, however often it has its turn, until the host moves. -/
def Obligations.IdleEngineWaits : Prop :=
  ∀ s : State, exec .idle s = .next s ∧
    (s.upc = 0x00 → s.sched = [] → ∀ k, Sys2Proof.core.run k s = .next s)

/-- R122: PAD appends `MSG[n mod L] ^ n[7:0]` at TAIL[t], adds it to n, counts it, and goes on to INIT
when t reaches NT. It completes wherever TAIL has an entry t. -/
def Obligations.PadAppendsOneTailWord : Prop :=
  ∀ s : State, s.t.toNat < 63 →
    ∃ t w, exec .pad s = .next t ∧
      t = { s with tail := t.tail, n := t.n, t := t.t, upc := t.upc } ∧
      (1 ≤ s.len.toNat → w = (s.msg.read (s.n.toNat % s.len.toNat)).toNat ^^^ s.n.toNat % 256) ∧
      w < 256 ∧
      (∀ j (h : j < 63), t.tail[j].toNat = if j = s.t.toNat then w else s.tail[j].toNat) ∧
      t.n.toNat = (s.n.toNat + w) % 2 ^ 64 ∧ t.t.toNat = s.t.toNat + 1 ∧
      (t.t = s.nt → t.upc = 0x02) ∧ (t.t ≠ s.nt → t.upc = 0x01)

/-- R130: INIT seeds ACC with IV, computes NB, zeroes the loop counters and goes on to MIX. -/
def Obligations.InitSeedsTheAccumulator : Prop :=
  ∀ s : State, ∃ t, exec .init s = .next t ∧
    t = { s with acc := t.acc, nb := t.nb, blk := 0, ch := 0, po := 0, r := 0, upc := 0x03 } ∧
    (∀ k : Fin 4, t.acc[k] = Config.iv k) ∧
    ((s.len.toNat + s.nt.toNat) % 64 = 0 → 64 * t.nb.toNat = s.len.toNat + s.nt.toNat)

/-- R131, with R121: MIX absorbs the portion at `64*blk + 16*ch + 4*po` of the padded stream, whose
words are the message's bytes and then TAIL. It completes in every state; the portion's words are
stated where they lie in the stream. -/
def Obligations.MixAbsorbsThePortion : Prop :=
  ∀ s : State, ∃ (t : State) (p : Portion), exec .mix s = .next t ∧
    t = { s with acc := Config.portionMix s.acc p s.r, upc := 0x04 } ∧
    ∀ (j : Fin 4) (i : Nat), i = 64 * s.blk.toNat + 16 * s.ch.toNat + 4 * s.po.toNat + j.val →
      (i < s.len.toNat → p[j].toNat = (s.msg.read i).toNat) ∧
      (∀ h : i - s.len.toNat < 63, s.len.toNat ≤ i → i < s.len.toNat + s.nt.toNat →
        p[j] = s.tail[i - s.len.toNat])

/-- R140: CAPT captures the accumulator into PRE. -/
def Obligations.CaptCapturesTheAccumulator : Prop :=
  ∀ s : State, ∃ t, exec .capt s = .next t ∧ t = { s with pre := t.pre, upc := 0x05 } ∧
    ∀ k : Fin 4, t.pre[k] = s.acc[k]

/-- R141 to R144: the four sub-transforms in the fixed order Alpha, Delta, Theta, Gamma; GAMMA
resets q. Run as four engine steps from ALPHA they compose (R154). -/
def Obligations.AlphabetStageAppliesInOrder : Prop :=
  ∀ s : State,
    exec .alpha s = .next { s with acc := Config.alpha s.acc, upc := 0x06 } ∧
    exec .delta s = .next { s with acc := Config.delta s.acc, upc := 0x07 } ∧
    exec .theta s = .next { s with acc := Config.theta s.acc, upc := 0x08 } ∧
    exec .gamma s = .next { s with acc := Config.gamma s.acc, q := 0, upc := 0x09 } ∧
    (s.rst = false → s.sched = [] → s.upc = 0x05 →
      Sys2Proof.core.run 4 s = .next { s with
        acc := Config.gamma (Config.theta (Config.delta (Config.alpha s.acc))), q := 0, upc := 0x09 })

/-- R145, with R155: PRIME reduces every word modulo RPRIME[q], mixes, and steps q, leaving the stage
after q = 89. -/
def Obligations.PrimeReducesThenMixes : Prop :=
  ∀ s : State, ∃ (t : State) (reduced : Factor), exec .prime s = .next t ∧
    (∀ k : Fin 4, reduced[k].toNat = s.acc[k].toNat % (Config.rprime s.q).toNat ∧
      reduced[k].toNat < (Config.rprime s.q).toNat) ∧
    t = { s with acc := Config.primeMix reduced (Config.rprime s.q), q := t.q, upc := t.upc } ∧
    (s.q.toNat = 89 → t.q = 0 ∧ t.upc = 0x0A) ∧
    (s.q.toNat < 89 → t.q.toNat = s.q.toNat + 1 ∧ t.upc = 0x09)

/-- R146, with R156: SHUF reorders the words by the product of the six transpositions of
SHUFFLE_ORDER, which are the six pairs, each once. -/
def Obligations.ShufflePermutesTheWords : Prop :=
  Config.shuffleOrder.Perm [(0, 1), (0, 2), (0, 3), (1, 2), (1, 3), (2, 3)] ∧
  ∀ s : State, ∃ t, exec .shuf s = .next t ∧ t = { s with acc := t.acc, upc := 0x0B } ∧
    (∀ k : Fin 4, t.acc[k] =
      s.acc[(Config.shuffleOrder.map fun p => Equiv.swap p.1 p.2).prod k]) ∧
    t.acc.toList.Perm s.acc.toList

/-- R147 with R162: ADD adds PRE word by word, wrapping at 2^16, and steps the counters: the next
round, portion, chunk or block, in that order, and FINISH after the last. -/
def Obligations.AddReinjectsAndAdvances : Prop :=
  ∀ s : State, ∃ t, exec .add s = .next t ∧
    t = { s with acc := t.acc, r := t.r, po := t.po, ch := t.ch, blk := t.blk, upc := t.upc } ∧
    (∀ k : Fin 4, t.acc[k].toNat = (s.pre[k].toNat + s.acc[k].toNat) % 2 ^ 16) ∧
    (s.r.toNat < 30 → t.r.toNat = s.r.toNat + 1 ∧ t.po = s.po ∧ t.ch = s.ch ∧ t.blk = s.blk ∧
      t.upc = 0x03) ∧
    (30 ≤ s.r.toNat → t.r = 0 ∧
      (s.po.toNat < 3 → t.po.toNat = s.po.toNat + 1 ∧ t.ch = s.ch ∧ t.blk = s.blk ∧
        t.upc = 0x03) ∧
      (s.po.toNat = 3 → t.po = 0 ∧
        (s.ch.toNat < 3 → t.ch.toNat = s.ch.toNat + 1 ∧ t.blk = s.blk ∧ t.upc = 0x03) ∧
        (s.ch.toNat = 3 → t.ch = 0 ∧
          (s.blk.toNat + 1 < s.nb.toNat → t.blk.toNat = s.blk.toNat + 1 ∧ t.upc = 0x03) ∧
          (s.nb.toNat ≤ s.blk.toNat + 1 → t.blk = s.blk ∧ t.upc = 0x0C))))

/-- R163: FINISH publishes the accumulator, BUSY off, DONE on. -/
def Obligations.FinishPublishesTheResult : Prop :=
  ∀ s : State, ∃ t, exec .finish s = .next t ∧
    t = { s with out := t.out, busy := false, done := true, upc := 0x00 } ∧
    ∀ k : Fin 4, t.out[k] = s.acc[k]

/-- R80: what each micro-op may write; everything else is unchanged. -/
def Obligations.MicroOpsWriteOnlyTheirRow : Prop :=
  ∀ (i : Instr) (s t : State), i.isMicroOp = true → exec i s = .next t →
    t.ie = s.ie ∧ t.err = s.err ∧ t.werr = s.werr ∧ t.cause = s.cause ∧ t.len = s.len ∧
    t.msg = s.msg ∧ t.nt = s.nt ∧ t.rst = s.rst ∧ t.resp = s.resp ∧ t.sched = s.sched ∧
    (i ≠ .finish → t.out = s.out ∧ t.busy = s.busy ∧ t.done = s.done) ∧
    (i ≠ .pad → t.tail = s.tail ∧ t.n = s.n ∧ t.t = s.t) ∧
    (i ≠ .init → t.nb = s.nb) ∧
    (i ≠ .capt → t.pre = s.pre) ∧
    (i ≠ .gamma → i ≠ .prime → t.q = s.q) ∧
    (i ≠ .init → i ≠ .add → t.blk = s.blk ∧ t.ch = s.ch ∧ t.po = s.po ∧ t.r = s.r) ∧
    (i = .idle ∨ i = .pad ∨ i = .capt ∨ i = .finish → t.acc = s.acc) ∧
    (i = .idle → t.upc = s.upc)

/-! ## Whole-machine rules -/

/-- R35 (with R63): a step changes OUT only at FINISH, at CLEAR and at reset. -/
def Obligations.OutChangesOnlyAtFinishClearReset : Prop :=
  ∀ s t : State, step s = .next t → t.out ≠ s.out →
    (s.upc = 0x0C ∧ (s.sched = [] ∨ ∃ rest, s.sched = .engine :: rest)) ∨
    (∃ e rest, s.sched = e :: rest ∧ (e.isClear = true ∨ e = .rst true))

/-- R30, R33, R34, R26: each register changes only at its writers: LEN at a LEN write and reset, TAIL at
PAD and reset, PRE at CAPT, CLEAR and reset, ACC at the engine's micro-ops, CLEAR and reset. -/
def Obligations.RegistersChangeOnlyAtTheirWriters : Prop :=
  ∀ s t : State, step s = .next t →
    let engineAt : BitVec 5 → Prop := fun u =>
      s.upc = u ∧ (s.sched = [] ∨ ∃ rest, s.sched = .engine :: rest)
    let hostClears : Prop := ∃ e rest, s.sched = e :: rest ∧ (e.isClear = true ∨ e = .rst true)
    let resets : Prop := ∃ rest, s.sched = .rst true :: rest
    (t.len ≠ s.len → (∃ d rest, s.sched = .bus (.write 0x010 .four d) :: rest ∧ s.busy = false ∧
      t.len = d) ∨ resets) ∧
    (t.tail ≠ s.tail → engineAt 0x01 ∨ resets) ∧
    (t.pre ≠ s.pre → engineAt 0x04 ∨ hostClears) ∧
    (t.acc ≠ s.acc → (∃ u : BitVec 5, 0x02 ≤ u.toNat ∧ u.toNat ≤ 0x0B ∧ u ≠ 0x04 ∧ engineAt u) ∨
      hostClears) ∧
    (t.msg ≠ s.msg → (∃ a n d rest, s.sched = .bus (.write a n d) :: rest ∧ 0x1000 ≤ a.toNat ∧
      s.busy = false) ∨ resets)

/-- R24: what sets and what clears each STATUS bit. DONE rises at FINISH only, BUSY at an accepted
START only, ERR at a refused START only, WERR at a write or a START while busy only; BUSY falls at
FINISH, CLEAR and reset only. -/
def Obligations.StatusBitsChangeAsTheTableSays : Prop :=
  ∀ s t : State, step s = .next t →
    let startTurn : Prop := ∃ d rest, d[1] = false ∧ d[0] = true ∧
      (s.sched = .command d :: rest ∨ s.sched = .bus (.write 0x004 .four d) :: rest)
    let finishTurn : Prop := s.upc = 0x0C ∧ (s.sched = [] ∨ ∃ rest, s.sched = .engine :: rest)
    let hostClears : Prop := ∃ e rest, s.sched = e :: rest ∧ (e.isClear = true ∨ e = .rst true)
    let statusWrite : Nat → Prop := fun k => ∃ d rest,
      s.sched = .bus (.write 0x008 .four d) :: rest ∧ d.getLsbD k = true
    (s.busy = false → t.busy = true → startTurn ∧ 1 ≤ s.len.toNat ∧ s.len.toNat ≤ Config.msgCap) ∧
    (s.busy = true → t.busy = false → finishTurn ∨ hostClears) ∧
    (s.done = false → t.done = true → finishTurn) ∧
    (s.done = true → t.done = false → startTurn ∨ statusWrite 1 ∨ hostClears) ∧
    (s.err = false → t.err = true →
      startTurn ∧ (s.len.toNat = 0 ∨ Config.msgCap < s.len.toNat)) ∧
    (s.err = true → t.err = false → startTurn ∨ statusWrite 2 ∨ hostClears) ∧
    (s.werr = false → t.werr = true → s.busy = true ∧ (startTurn ∨
      ∃ a n d rest, s.sched = .bus (.write a n d) :: rest ∧ (a = 0x010 ∨ 0x1000 ≤ a.toNat))) ∧
    (s.werr = true → t.werr = false → (startTurn ∧ s.busy = false) ∨ statusWrite 3 ∨ hostClears)

/-- R208: `irq = IE & (DONE | ERR)`, mirrored in STATUS bit 4; WERR does not raise it; FINISH and a
refused START raise it when IE is set, and a STATUS write of DONE and ERR lowers it. -/
def Obligations.IrqIsEnableAndDoneOrErr : Prop :=
  ∀ s : State,
    s.irq = (s.ie && (s.done || s.err)) ∧ s.statusWord.getLsbD 4 = s.irq ∧
    s.dropWrite.irq = s.irq ∧
    (∀ t, exec .finish s = .next t → t.irq = s.ie) ∧
    (∀ (d : Word32) (t : State), s.busy = false → s.len = 0 → exec (.start d) s = .next t →
      t.irq = d[2]) ∧
    (∀ (d : Word32) (t : State), d[1] = true → d[2] = true →
      exec (.wrStatus d) s = .next t → t.irq = false)

/-- R207: the ways back from an error: a STATUS write of ERR, CLEAR, and a START that is accepted
once LEN is fixed; a second refused START leaves exactly its own cause. -/
def Obligations.ErrorsAreRecoverable : Prop :=
  ∀ (s : State) (d : Word32), s.err = true → s.busy = false →
    (d[2] = true → ∃ t, exec (.wrStatus d) s = .next t ∧ t.err = false ∧ t.cause = 0) ∧
    (∃ t, exec (.clear d) s = .next t ∧ t.err = false ∧ t.cause = 0) ∧
    (1 ≤ s.len.toNat → s.len.toNat ≤ Config.msgCap →
      ∃ t, exec (.start d) s = .next t ∧ t.err = false ∧ t.cause = 0 ∧ t.busy = true) ∧
    (s.len.toNat = 0 → ∃ t, exec (.start d) s = .next t ∧ t.err = true ∧ t.cause = 1)

/-! ## Isolation -/

/-- R64: a running hash cannot be disturbed by the host: while BUSY = 1, a turn of the host that is
no CLEAR leaves everything the engine reads as it is, and BUSY set. -/
def Obligations.RunningHashIsUndisturbed : Prop :=
  ∀ (s t : State) (e : Event) (rest : List Event), s.busy = true → s.sched = e :: rest →
    e ≠ .engine → e.isClear = false → e.isReset = false → step s = .next t →
      t.engineView = s.engineView ∧ t.busy = true ∧ t.out = s.out

/-- R168: the engine's result does not depend on how its steps interleave with host reads: any
interleaving of engine turns and host reads leaves the engine's registers, the flags and OUT where
the engine turns alone leave them. -/
def Obligations.ResultIndependentOfInterleavedReads : Prop :=
  ∀ (s : State) (turns : List Event), s.Inv → s.rst = false →
    (∀ e ∈ turns, e = .engine ∨ e.isRead = true) →
      ∃ t u, Sys2Proof.core.run turns.length { s with sched := turns } = .next t ∧
        Sys2Proof.core.run (turns.count .engine) { s with sched := [] } = .next u ∧
        t = { u with resp := t.resp, sched := [] }

/-- R230: message bytes at and beyond L do not affect the hash: however many steps the engine takes,
only MSG itself tells two such runs apart. -/
def Obligations.BytesBeyondTheLengthDoNotMatter : Prop :=
  ∀ (s : State) (m : Memory) (k : Nat), s.Inv → s.sched = [] →
    (∀ i, i < s.len.toNat → m.read i = s.msg.read i) →
      ∃ t, Sys2Proof.core.run k s = .next t ∧
        Sys2Proof.core.run k { s with msg := m } = .next { t with msg := m }

/-! ## Padder, round and hash as functions -/

/-- R124, R125: for every non-empty message the padded word count is the smallest multiple of 64 that
is at least its length, the first words are the bytes zero-extended, and every word is below 256. -/
def Obligations.PaddedStreamShape : Prop :=
  ∀ m : List Byte, m ≠ [] →
    (padMessage m).length = 64 * ((m.length + 63) / 64) ∧
    (padMessage m).length = m.length + (64 - m.length % 64) % 64 ∧
    (∀ i, ∀ h : i < m.length, (padMessage m)[i]? = some (m[i].setWidth 16)) ∧
    (∀ w ∈ padMessage m, w.toNat < 256)

/-- R123: an accepted START followed by NT PAD steps leaves `Word(i) = Pad(m)[i]` for every i of the
padded stream, with the engine at INIT. -/
def Obligations.PadStepsProduceThePaddedMessage : Prop :=
  ∀ (s : State) (d : Word32), s.rst = false → s.sched = [] → s.busy = false →
    1 ≤ s.len.toNat → s.len.toNat ≤ Config.msgCap →
      ∃ t0 t, exec (.start d) s = .next t0 ∧
        Sys2Proof.core.run ((64 - s.len.toNat % 64) % 64) t0 = .next t ∧ t.upc = 0x02 ∧
        (∀ i, i < s.len.toNat + (64 - s.len.toNat % 64) % 64 →
          (padMessage s.message)[i]? = some (t.streamWord i)) ∧
        t = { t0 with tail := t.tail, n := t.n, t := t.t, upc := t.upc }

/-- R153: the micro-ops CAPT, ALPHA, DELTA, THETA, GAMMA, PRIME × 90, SHUF and ADD, started with
ACC = A, leave ACC = RoundPipeline(A). -/
def Obligations.RoundStepsComputeRoundPipeline : Prop :=
  ∀ s : State, s.rst = false → s.sched = [] → s.upc = 0x04 →
    ∃ t, Sys2Proof.core.run 97 s = .next t ∧ t.acc = roundPipeline s.acc ∧
      (t.upc = 0x03 ∨ t.upc = 0x0C) ∧
      t = { s with acc := t.acc, pre := s.acc, q := 0, r := t.r, po := t.po, ch := t.ch
                   blk := t.blk, upc := t.upc }

/-- From R164, R165 and R166, with the host silent from START on (no turn is left; R164 forbids only a
CLEAR): an accepted START reaches IDLE after exactly NT + 2 + 48608·NB engine steps, BUSY all the way
and not before, with OUT = PoxHash(m) and DONE = 1. -/
def Obligations.EngineComputesPoxHash : Prop :=
  ∀ (s : State) (d : Word32), s.rst = false → s.sched = [] → s.busy = false →
    1 ≤ s.len.toNat → s.len.toNat ≤ Config.msgCap →
      let nt := (64 - s.len.toNat % 64) % 64
      let steps := nt + 2 + 48608 * ((s.len.toNat + nt) / 64)
      ∃ t0 t, exec (.start d) s = .next t0 ∧ Sys2Proof.core.run steps t0 = .next t ∧
        t.out = poxHash s.message ∧ t.acc = t.out ∧ t.done = true ∧ t.busy = false ∧
        t.upc = 0x00 ∧ t.err = false ∧ t.msg = s.msg ∧ t.len = s.len ∧
        ∀ k, k < steps → ∃ u, Sys2Proof.core.run k t0 = .next u ∧ u.busy = true

/-! ## Digest encoder -/

/-- R172: the digits of a word are W_B values below B, most significant first, and the word is their
positional value: every Word has a W_B-digit form. -/
def Obligations.DigitsArePositional : Prop :=
  ∀ (b : Base) (v : Word), (digits b v).length = digitCount b ∧
    (∀ d ∈ digits b v, d < Config.radix b) ∧
    (digits b v).foldl (fun acc d => acc * Config.radix b + d) 0 = v.toNat

/-- R175, R176: the digest lengths, for every OUT, and every character a member of its alphabet. -/
def Obligations.DigestShapeAndAlphabet : Prop :=
  ∀ out : Factor,
    (digestString .b60 out).length = 12 ∧ (digestString .b20 out).length = 16 ∧
    (digestString .b16 out).length = 16 ∧ (digestString .b14 out).length = 20 ∧
    (digestString .b12 out).length = 20 ∧ (digestString .b8 out).length = 24 ∧
    (digestString .b6 out).length = 28 ∧ (digestString .b2 out).length = 64 ∧
    ∀ b : Base, ∀ c ∈ digestString b out, c ∈ Config.alphabet b

/-- In every base, with every allowed alphabet, different results have different digests (from R10's
distinct codes, R171's widths and R172). -/
def Obligations.DigestsTellResultsApart : Prop :=
  ∀ (b : Base) (x y : Factor), digestString b x = digestString b y → x = y

/-- R181: the numeric views agree with each other. -/
def Obligations.NumericViewsAgree : Prop :=
  ∀ x : Factor,
    (out01 x).toNat = x[0].toNat + 2 ^ 16 * x[1].toNat ∧
    (out23 x).toNat = x[2].toNat + 2 ^ 16 * x[3].toNat ∧
    (quadView x).toNat =
      x[0].toNat + 2 ^ 16 * x[1].toNat + 2 ^ 32 * x[2].toNat + 2 ^ 48 * x[3].toNat ∧
    wordsView x = [x[0], x[1], x[2], x[3]] ∧ doublesView x = [out01 x, out23 x] ∧
    (bytesView x).length = 8 ∧
    ∀ i : Fin 4, ((bytesView x)[2 * i.val]?.map BitVec.toNat) = some (x[i].toNat % 256) ∧
      ((bytesView x)[2 * i.val + 1]?.map BitVec.toNat) = some (x[i].toNat / 256)

/-- R177: on the bus the byte view is the eight bytes at 0x018 + j. -/
def Obligations.ByteViewIsReadAtItsAddresses : Prop :=
  ∀ (s : State) (j : Nat) (rest : List Event), j < 8 → s.rst = false →
    s.sched = .bus (.read (BitVec.ofNat 32 (0x018 + j)) .one) :: rest →
      ∃ t v, step s = .next t ∧ t.resp = some (.readData v) ∧
        some v.toNat = (bytesView s.out)[j]?.map BitVec.toNat
end

