-- ==== Sys2Proof/Laws/Config.lean ====
section
/-! SUPPORT. What the configuration guarantees, whatever its free values: the limits the spec gives
each OPEN parameter (00_scope.md R9 to R13). -/

namespace Sys2Proof.Config

variable {α : Type}

theorem draw_cons (raw : Nat → Nat) (n : Nat) (pool : List α) (h : pool ≠ []) :
    ∃ k, ∃ hk : k < pool.length, draw raw (n + 1) pool = pool[k] :: draw raw n (pool.eraseIdx k) := by
  have hk : raw n % pool.length < pool.length := Nat.mod_lt _ (List.length_pos_iff.2 h)
  exact ⟨_, hk, by simp [draw, List.getElem?_eq_getElem hk]⟩

theorem draw_length (raw : Nat → Nat) (n : Nat) (pool : List α) (h : n ≤ pool.length) :
    (draw raw n pool).length = n := by
  induction n generalizing pool with
  | zero => rfl
  | succ n ih =>
    obtain ⟨k, hk, e⟩ := draw_cons raw n pool (by rintro rfl; simp at h)
    rw [e, List.length_cons, ih _ (by rw [List.length_eraseIdx_of_lt hk]; omega)]

theorem draw_sublist_perm (raw : Nat → Nat) (n : Nat) (pool : List α) :
    (draw raw n pool).Subperm pool := by
  induction n generalizing pool with
  | zero => exact List.nil_subperm
  | succ n ih =>
    by_cases h : pool = []
    · subst h; simp [draw]
    · obtain ⟨k, hk, e⟩ := draw_cons raw n pool h
      rw [e]
      exact ((List.subperm_cons _).2 (ih _)).trans (List.getElem_cons_eraseIdx_perm hk).subperm

theorem draw_nodup (raw : Nat → Nat) (n : Nat) (pool : List α) (h : pool.Nodup) :
    (draw raw n pool).Nodup :=
  let ⟨_, p, hs⟩ := draw_sublist_perm raw n pool
  p.nodup_iff.1 (hs.nodup h)

theorem draw_perm (raw : Nat → Nat) (pool : List α) : (draw raw pool.length pool).Perm pool :=
  (draw_sublist_perm raw _ pool).perm_of_length_le (by rw [draw_length _ _ _ le_rfl])

/-- `1 ≤ MSG_CAP ≤ 0xFFFF_F000` (R13). -/
theorem msgCap_bounds : 1 ≤ msgCap ∧ msgCap ≤ 0xFFFFF000 := by
  unfold msgCap
  omega

/-- Every round prime is at least 2 (R9). -/
theorem two_le_rprime (q : BitVec 7) : 2 ≤ (rprime q).toNat := by
  unfold rprime
  split
  · rw [BitVec.toNat_add]
    simp
    omega
  · omega

/-- Every PRIME8 entry is one of the primes below 256 (R9). -/
theorem prime8_mem (k : Fin 54) : prime8 k ∈ primesBelow256 := by
  have h : (prime8Raw k).val < primesBelow256.length := (prime8Raw k).isLt
  simp [prime8, List.getD_eq_getElem?_getD, List.getElem?_eq_getElem h]

theorem primesBelow256_prime : ∀ p ∈ primesBelow256, p.toNat.Prime ∧ p.toNat < 256 := by
  have h : primesBelow256.map BitVec.toNat = (List.range 256).filter (fun n => Nat.Prime n) := by
    decide +kernel
  intro p hp
  have := List.mem_map_of_mem (f := BitVec.toNat) hp
  rw [h] at this
  simp at this
  exact this.symm

/-- SHUFFLE_ORDER holds each of the six pairs exactly once (R11). -/
theorem shuffleOrder_perm : shuffleOrder.Perm slotPairs := draw_perm shuffleRaw slotPairs

/-- `ALPH_B` has B codes (R10). -/
theorem alphabet_length (b : Base) : (alphabet b).length = radix b := by
  cases b
  case b16 => rfl
  all_goals exact draw_length _ _ _ (by rw [List.length_map, List.length_range]; decide)

/-- The codes of `ALPH_B` are pairwise distinct (R10). -/
theorem alphabet_nodup (b : Base) : (alphabet b).Nodup := by
  have h : ((List.range 256).map (BitVec.ofNat 8)).Nodup := by decide +kernel
  cases b
  case b16 => exact (by decide : hexAlphabet.Nodup)
  all_goals exact draw_nodup _ _ _ h

/-- W_B is wide enough: `65536 ≤ B^W_B` (R171). -/
theorem width_wide (b : Base) : 65536 ≤ radix b ^ Machine.digitCount b := by
  cases b <;> decide

theorem radix_pos (b : Base) : 0 < radix b := by
  cases b <;> decide

end Sys2Proof.Config
end

