-- ==== Sys2Proof/Laws/Decode.lean ====
section
/-! SUPPORT. The address map, read both ways (10_state.md R20, 20_memory.md R52). -/

namespace Sys2Proof.Machine

/-- How many bytes an item of the register region has: 4, or 64 for a digest window (R20). -/
abbrev itemBytes : Item → Nat
  | .digest _ => 64
  | _ => 4

/-- Every byte of an item of the register region belongs to it. -/
theorem registerItem_of_item (i : Item) (hi : i ≠ .msg) (k : Nat) (hk : k < itemBytes i) :
    registerItem (itemBase i + k) = some i := by
  have small : ∀ j : Fin 64, ∀ b : Base,
      registerItem (itemBase (.digest b) + j.val) = some (.digest b) := by
    intro j b
    cases b <;> revert j <;> decide +kernel
  cases i
  case msg => exact absurd rfl hi
  case digest b => exact small ⟨k, hk⟩ b
  all_goals
    simp only [itemBytes] at hk
    have : k = 0 ∨ k = 1 ∨ k = 2 ∨ k = 3 := by omega
    obtain rfl | rfl | rfl | rfl := this <;> rfl

theorem digestOfBlock_some {k : Nat} {b : Base} (h : digestOfBlock k = some b) :
    0x40 * k = itemBase (.digest b) := by
  unfold digestOfBlock at h
  split at h <;> cases h <;> rfl

theorem digestOfBlock_none {k : Nat} : digestOfBlock k = none ↔ k < 4 ∨ 12 ≤ k := by
  rcases Nat.lt_or_ge k 12 with h | h
  · interval_cases k <;> simp [digestOfBlock]
  · have e : digestOfBlock k = none := by
      unfold digestOfBlock
      split <;> first | rfl | omega
    simp [e, h]

/-- A byte of the register region belongs to at most the item whose bytes it is among. -/
theorem registerItem_bounds {a : Nat} {i : Item} (h : registerItem a = some i) :
    i ≠ .msg ∧ itemBase i ≤ a ∧ a < itemBase i + itemBytes i := by
  unfold registerItem at h
  split at h
  case h_9 =>
    obtain ⟨b, hb, rfl⟩ := Option.map_eq_some_iff.1 h
    have := digestOfBlock_some hb
    simp only [itemBytes]
    exact ⟨by simp, by omega, by omega⟩
  all_goals
    cases h
    simp only [itemBase, itemBytes]
    exact ⟨by simp, by omega, by omega⟩

/-- The unmapped addresses of the register region (R20). -/
theorem registerItem_none {a : Nat} :
    registerItem a = none ↔ (0x020 ≤ a ∧ a < 0x100) ∨ 0x300 ≤ a := by
  unfold registerItem
  split
  case h_9 =>
    simp only [imp_false] at *
    rw [Option.map_eq_none_iff, digestOfBlock_none]
    omega
  all_goals
    simp only [reduceCtorEq, false_iff]
    omega

/-- An item's base is a multiple of its size, so its bytes have their own low address bits. -/
theorem itemBase_mod (i : Item) : itemBase i % itemBytes i = 0 := by
  cases i with
  | digest b => cases b <;> rfl
  | _ => rfl

theorem itemBase_le (i : Item) : itemBase i ≤ 0x1000 ∧ (i ≠ .msg → itemBase i ≤ 0x2C0) := by
  cases i with
  | digest b => cases b <;> simp [itemBase]
  | _ => simp [itemBase]

/-- The item of an address in the MSG window (R52). -/
theorem itemOf_msg {a : Nat} {n : Size} (h : 0x1000 ≤ a) :
    itemOf a n = if a + bytesOf n ≤ 0x1000 + Config.msgCap then some .msg else none := by
  have e : inMsgWindow a n = decide (a + bytesOf n ≤ 0x1000 + Config.msgCap) := by
    simp only [inMsgWindow, msgBase, decide_eq_true h, Bool.true_and]
    exact decide_eq_decide.2 (by omega)
  rw [itemOf, if_neg (by simp only [msgBase]; omega), e]
  by_cases hw : a + bytesOf n ≤ 0x1000 + Config.msgCap <;> simp [hw]

theorem itemOf_register {a : Nat} {n : Size} (h : a < 0x1000) : itemOf a n = registerItem a :=
  if_pos h

end Sys2Proof.Machine
end

