-- ==== Sys2Proof/Laws/Digest.lean ====
section
/-! SUPPORT. The shape of the digest strings (45_digest.md R174 to R176). -/

namespace Sys2Proof.Machine

theorem digits_length (b : Base) (v : Word) : (digits b v).length = digitCount b := by
  simp [digits]

/-- Every digit is below its base (R176). -/
theorem digits_lt (b : Base) (v : Word) : ∀ d ∈ digits b v, d < Config.radix b := by
  intro d hd
  simp only [digits, List.mem_map] at hd
  obtain ⟨k, -, rfl⟩ := hd
  exact Nat.mod_lt _ (Config.radix_pos b)

/-- A digit's character is in the alphabet (R176). -/
theorem charOf_mem (b : Base) {d : Nat} (h : d < Config.radix b) : charOf b d ∈ Config.alphabet b := by
  have h' : d < (Config.alphabet b).length := by rwa [Config.alphabet_length]
  rw [charOf, List.getD_eq_getElem?_getD, List.getElem?_eq_getElem h']
  exact List.getElem_mem h'

theorem chars_length (b : Base) (v : Word) : (chars b v).length = digitCount b := by
  rw [chars, List.length_map, digits_length]

/-- The digest string has 4·W_B characters (R174). -/
theorem digestString_length (b : Base) (out : Factor) :
    (digestString b out).length = 4 * digitCount b := by
  simp only [digestString, List.length_append, chars_length]
  omega

/-- A window reads 0 past its string (R29). -/
theorem digestByte_past (b : Base) (out : Factor) {x : Nat} (h : 4 * digitCount b ≤ x) :
    digestByte b out x = 0 := by
  rw [digestByte, List.getD_eq_getElem?_getD, List.getElem?_eq_none]
  · rfl
  · rw [digestString_length]
    exact h

/-- A read of bytes that are all past the string is 0. -/
theorem selectDigest_past (b : Base) (out : Factor) {off : BitVec 6} (n : Size)
    (h : 4 * digitCount b ≤ off.toNat) : selectDigest b out off n = 0 := by
  have e : ∀ m, digestByte b out (off.toNat + m) = 0 := fun m => digestByte_past b out (by omega)
  cases n <;> (simp only [selectDigest, assemble, e]; rfl)

end Sys2Proof.Machine
end

