-- ==== Sys2Proof/Laws/Memory.lean ====
section
/-! SUPPORT. The laws of the message memory: read after write, every other byte alone, and that
every operation keeps the canonical form and the window. -/

namespace Sys2Proof.Machine

theorem findCell_insertCell (cs : List Host.Cell) (i j : Nat) (v : Byte) :
    findCell (insertCell cs i v) j = if i = j then some v else findCell cs j := by
  induction cs with
  | nil => simp [insertCell, findCell]
  | cons c cs ih =>
    simp only [insertCell]
    split
    · simp [findCell]
    · split
      · simp only [findCell]; split <;> simp_all
      · simp only [findCell, ih]
        split <;> split <;> first | rfl | omega

theorem mem_insertCell {cs : List Host.Cell} {i : Nat} {v : Byte} {c : Host.Cell}
    (h : c ∈ insertCell cs i v) : c = (i, v) ∨ c ∈ cs := by
  induction cs with
  | nil => simpa [insertCell] using h
  | cons d cs ih =>
    simp only [insertCell] at h
    split at h
    · simpa using h
    · split at h
      · simp only [List.mem_cons] at h ⊢; tauto
      · simp only [List.mem_cons] at h ⊢
        rcases h with h | h
        · tauto
        · rcases ih h with h | h <;> tauto

theorem insertCell_pairwise {cs : List Host.Cell} (i : Nat) (v : Byte)
    (h : cs.Pairwise (fun a b => a.1 < b.1)) :
    (insertCell cs i v).Pairwise (fun a b => a.1 < b.1) := by
  induction cs with
  | nil => simp [insertCell]
  | cons d cs ih =>
    obtain ⟨h1, h2⟩ := List.pairwise_cons.1 h
    simp only [insertCell]
    split
    · next hi =>
      refine List.pairwise_cons.2 ⟨fun c hc => ?_, h⟩
      rcases List.mem_cons.1 hc with rfl | hc
      · exact hi
      · exact hi.trans (h1 c hc)
    · split
      · next hi => exact List.pairwise_cons.2 ⟨fun c hc => hi ▸ h1 c hc, h2⟩
      · refine List.pairwise_cons.2 ⟨fun c hc => ?_, ih h2⟩
        rcases mem_insertCell hc with rfl | hc
        · show d.1 < i; omega
        · exact h1 c hc

theorem eraseCell_sublist (cs : List Host.Cell) (i : Nat) : (eraseCell cs i).Sublist cs := by
  induction cs with
  | nil => exact List.Sublist.slnil
  | cons c cs ih =>
    simp only [eraseCell]
    split
    · exact List.sublist_cons_self c cs
    · exact ih.cons_cons c

theorem findCell_eq_none {cs : List Host.Cell} {i : Nat} (h : ∀ c ∈ cs, c.1 ≠ i) :
    findCell cs i = none := by
  induction cs with
  | nil => rfl
  | cons c cs ih =>
    simp only [List.mem_cons, forall_eq_or_imp] at h
    simp [findCell, h.1, ih h.2]

theorem findCell_eraseCell {cs : List Host.Cell} (h : cs.Pairwise (fun a b => a.1 < b.1))
    (i j : Nat) : findCell (eraseCell cs i) j = if i = j then none else findCell cs j := by
  induction cs with
  | nil => simp [eraseCell, findCell]
  | cons c cs ih =>
    obtain ⟨h1, h2⟩ := List.pairwise_cons.1 h
    simp only [eraseCell]
    split
    · next hc =>
      split
      · next hij => exact findCell_eq_none (fun d hd => by have := h1 d hd; omega)
      · simp only [findCell]; rw [if_neg (by omega)]
    · simp only [findCell, ih h2]
      split <;> split <;> first | rfl | omega

@[simp] theorem Memory.write_draw (m : Memory) (i : Nat) (v : Byte) :
    (m.write i v).draw = m.draw := rfl

/-- A read after a write to the same index gives the byte written; every other index is left alone. -/
theorem Memory.read_write {m : Memory} (h : m.wf) (i j : Nat) (v : Byte) :
    (m.write i v).read j = if i = j then v else m.read j := by
  unfold Memory.read Memory.write
  dsimp only
  split
  · next hv =>
    rw [findCell_eraseCell h.1]
    split
    · next hij => subst hij; simp [hv, Memory.unlisted]
    · rfl
  · rw [findCell_insertCell]
    split <;> rfl

/-- A write keeps the canonical form. -/
theorem Memory.write_wf {m : Memory} (h : m.wf) (i : Nat) (v : Byte) : (m.write i v).wf := by
  unfold Memory.wf Memory.write
  dsimp only
  split
  · exact ⟨h.1.sublist (eraseCell_sublist _ _), fun c hc => h.2 c ((eraseCell_sublist _ _).subset hc)⟩
  · next hv =>
    refine ⟨insertCell_pairwise i v h.1, fun c hc => ?_⟩
    rcases mem_insertCell hc with rfl | hc
    · exact hv
    · exact h.2 c hc

/-- The memory with nothing listed has the form. -/
theorem Memory.wf_nil (d : Nat) : (Memory.mk d []).wf := ⟨List.Pairwise.nil, fun _ h => by cases h⟩

/-- A write inside a window keeps every listed byte inside it. -/
theorem Memory.write_window {m : Memory} {k : Nat} (h : ∀ c ∈ m.cells, c.1 < k) {i : Nat}
    (hi : i < k) (v : Byte) : ∀ c ∈ (m.write i v).cells, c.1 < k := by
  intro c hc
  unfold Memory.write at hc
  dsimp only at hc
  split at hc
  · exact h c ((eraseCell_sublist _ _).subset hc)
  · rcases mem_insertCell hc with rfl | hc
    · exact hi
    · exact h c hc

/-- The bytes stored by a write of `n` bytes at `i` are `data`'s, every other byte is left alone. -/
theorem Memory.read_writeBytes {m : Memory} (h : m.wf) (i j : Nat) (v : Word32) (n : Size) :
    (m.writeBytes i v n).read j = if i ≤ j ∧ j < i + bytesOf n then byteOf v (j - i) else m.read j := by
  have w1 := Memory.write_wf h i (byteOf v 0)
  have w2 := Memory.write_wf w1 (i + 1) (byteOf v 1)
  have w3 := Memory.write_wf w2 (i + 2) (byteOf v 2)
  by_cases hin : i ≤ j ∧ j < i + bytesOf n
  · rw [if_pos hin]
    obtain ⟨k, rfl⟩ := Nat.exists_eq_add_of_le hin.1
    rw [Nat.add_sub_cancel_left]
    have hk : k < bytesOf n := by omega
    cases n <;> simp only [bytesOf] at hk <;> simp only [Memory.writeBytes]
    · obtain rfl : k = 0 := by omega
      simp [Memory.read_write h]
    · obtain rfl | rfl : k = 0 ∨ k = 1 := by omega
      all_goals simp [Memory.read_write w1, Memory.read_write h]
    · obtain rfl | rfl | rfl | rfl : k = 0 ∨ k = 1 ∨ k = 2 ∨ k = 3 := by omega
      all_goals
        simp [Memory.read_write w3, Memory.read_write w2, Memory.read_write w1, Memory.read_write h]
  · rw [if_neg hin]
    cases n <;> simp only [bytesOf] at hin <;> simp only [Memory.writeBytes]
    · rw [Memory.read_write h, if_neg (by omega)]
    · rw [Memory.read_write w1, if_neg (by omega), Memory.read_write h, if_neg (by omega)]
    · rw [Memory.read_write w3, if_neg (by omega), Memory.read_write w2, if_neg (by omega),
        Memory.read_write w1, if_neg (by omega), Memory.read_write h, if_neg (by omega)]

theorem Memory.writeBytes_wf {m : Memory} (h : m.wf) (i : Nat) (v : Word32) (n : Size) :
    (m.writeBytes i v n).wf := by
  cases n
  · exact Memory.write_wf h _ _
  · exact Memory.write_wf (Memory.write_wf h _ _) _ _
  · exact Memory.write_wf (Memory.write_wf (Memory.write_wf (Memory.write_wf h _ _) _ _) _ _) _ _

theorem Memory.writeBytes_window {m : Memory} {k : Nat} (h : ∀ c ∈ m.cells, c.1 < k) {i : Nat}
    {n : Size} (hi : i + bytesOf n ≤ k) (v : Word32) : ∀ c ∈ (m.writeBytes i v n).cells, c.1 < k := by
  cases n <;> simp only [bytesOf] at hi
  · exact Memory.write_window h (by omega) _
  · exact Memory.write_window (Memory.write_window h (by omega) _) (by omega) _
  · exact Memory.write_window (Memory.write_window (Memory.write_window
      (Memory.write_window h (by omega) _) (by omega) _) (by omega) _) (by omega) _

/-- Two canonical memories of one draw that read the same everywhere are equal: the form is
canonical. -/
theorem Memory.eq_of_read {m m' : Memory} (h : m.wf) (h' : m'.wf) (hd : m.draw = m'.draw)
    (hr : ∀ i, m.read i = m'.read i) : m = m' := by
  have listed : ∀ {m : Memory}, m.wf → ∀ c ∈ m.cells, findCell m.cells c.1 = some c.2 := by
    intro m hm
    obtain ⟨d, cs⟩ := m
    have hp := hm.1
    clear hm
    dsimp only at hp ⊢
    induction cs with
    | nil => simp
    | cons a cs ih =>
      obtain ⟨h1, h2⟩ := List.pairwise_cons.1 hp
      intro c hc
      rcases List.mem_cons.1 hc with rfl | hc
      · simp [findCell]
      · simp only [findCell]
        rw [if_neg (by have := h1 c hc; omega)]
        exact ih h2 c hc
  have sub : ∀ {m m' : Memory}, m.wf → m'.wf → m.draw = m'.draw → (∀ i, m.read i = m'.read i) →
      ∀ c ∈ m.cells, c ∈ m'.cells := by
    intro m m' hm hm' hd hr c hc
    have hv : m'.read c.1 = c.2 := by rw [← hr, Memory.read, listed hm c hc]; rfl
    by_contra hn
    have hfind : findCell m'.cells c.1 = none := by
      refine findCell_eq_none (fun e he hec => hn ?_)
      have : m'.read c.1 = e.2 := by rw [← hec, Memory.read, listed hm' e he]; rfl
      have : c = e := Prod.ext hec.symm (hv.symm.trans this)
      exact this ▸ he
    rw [Memory.read, hfind] at hv
    exact hm.2 c hc (by rw [← hv]; simp [Memory.unlisted, hd])
  have hcells : m.cells = m'.cells := by
    have p : m.cells.Perm m'.cells := by
      refine (List.perm_ext_iff_of_nodup ?_ ?_).2
        (fun c => ⟨sub h h' hd hr c, sub h' h hd.symm (fun i => (hr i).symm) c⟩)
      · exact h.1.imp (fun hab e => by rw [e] at hab; omega)
      · exact h'.1.imp (fun hab e => by rw [e] at hab; omega)
    exact p.eq_of_pairwise (fun a b _ _ hab hba => by omega) h.1 h'.1
  cases m; cases m'; simp_all

end Sys2Proof.Machine
end

