-- ==== Sys2Proof/Laws/State.lean ====
section
/-! SUPPORT. One lemma per field per named update of State, each true by rfl, so that no later proof
unfolds a record update. -/

namespace Sys2Proof.Machine

/-! ## `answer` -/

@[simp] theorem State.answer_ie (s : State) (v : Response) : (s.answer v).ie = s.ie := rfl
@[simp] theorem State.answer_busy (s : State) (v : Response) : (s.answer v).busy = s.busy := rfl
@[simp] theorem State.answer_done (s : State) (v : Response) : (s.answer v).done = s.done := rfl
@[simp] theorem State.answer_err (s : State) (v : Response) : (s.answer v).err = s.err := rfl
@[simp] theorem State.answer_werr (s : State) (v : Response) : (s.answer v).werr = s.werr := rfl
@[simp] theorem State.answer_cause (s : State) (v : Response) : (s.answer v).cause = s.cause := rfl
@[simp] theorem State.answer_len (s : State) (v : Response) : (s.answer v).len = s.len := rfl
@[simp] theorem State.answer_out (s : State) (v : Response) : (s.answer v).out = s.out := rfl
@[simp] theorem State.answer_msg (s : State) (v : Response) : (s.answer v).msg = s.msg := rfl
@[simp] theorem State.answer_acc (s : State) (v : Response) : (s.answer v).acc = s.acc := rfl
@[simp] theorem State.answer_pre (s : State) (v : Response) : (s.answer v).pre = s.pre := rfl
@[simp] theorem State.answer_tail (s : State) (v : Response) : (s.answer v).tail = s.tail := rfl
@[simp] theorem State.answer_upc (s : State) (v : Response) : (s.answer v).upc = s.upc := rfl
@[simp] theorem State.answer_blk (s : State) (v : Response) : (s.answer v).blk = s.blk := rfl
@[simp] theorem State.answer_ch (s : State) (v : Response) : (s.answer v).ch = s.ch := rfl
@[simp] theorem State.answer_po (s : State) (v : Response) : (s.answer v).po = s.po := rfl
@[simp] theorem State.answer_r (s : State) (v : Response) : (s.answer v).r = s.r := rfl
@[simp] theorem State.answer_q (s : State) (v : Response) : (s.answer v).q = s.q := rfl
@[simp] theorem State.answer_t (s : State) (v : Response) : (s.answer v).t = s.t := rfl
@[simp] theorem State.answer_nt (s : State) (v : Response) : (s.answer v).nt = s.nt := rfl
@[simp] theorem State.answer_nb (s : State) (v : Response) : (s.answer v).nb = s.nb := rfl
@[simp] theorem State.answer_n (s : State) (v : Response) : (s.answer v).n = s.n := rfl
@[simp] theorem State.answer_rst (s : State) (v : Response) : (s.answer v).rst = s.rst := rfl
@[simp] theorem State.answer_resp (s : State) (v : Response) : (s.answer v).resp = some v := rfl
@[simp] theorem State.answer_sched (s : State) (v : Response) : (s.answer v).sched = s.sched := rfl

/-! ## `raiseError` -/

@[simp] theorem State.raiseError_ie (s : State) (c : ErrorCause) : (s.raiseError c).ie = s.ie := rfl
@[simp] theorem State.raiseError_busy (s : State) (c : ErrorCause) : (s.raiseError c).busy = s.busy := rfl
@[simp] theorem State.raiseError_done (s : State) (c : ErrorCause) : (s.raiseError c).done = s.done := rfl
@[simp] theorem State.raiseError_err (s : State) (c : ErrorCause) : (s.raiseError c).err = true := rfl
@[simp] theorem State.raiseError_werr (s : State) (c : ErrorCause) : (s.raiseError c).werr = s.werr := rfl
@[simp] theorem State.raiseError_cause (s : State) (c : ErrorCause) : (s.raiseError c).cause = causeCode c := rfl
@[simp] theorem State.raiseError_len (s : State) (c : ErrorCause) : (s.raiseError c).len = s.len := rfl
@[simp] theorem State.raiseError_out (s : State) (c : ErrorCause) : (s.raiseError c).out = s.out := rfl
@[simp] theorem State.raiseError_msg (s : State) (c : ErrorCause) : (s.raiseError c).msg = s.msg := rfl
@[simp] theorem State.raiseError_acc (s : State) (c : ErrorCause) : (s.raiseError c).acc = s.acc := rfl
@[simp] theorem State.raiseError_pre (s : State) (c : ErrorCause) : (s.raiseError c).pre = s.pre := rfl
@[simp] theorem State.raiseError_tail (s : State) (c : ErrorCause) : (s.raiseError c).tail = s.tail := rfl
@[simp] theorem State.raiseError_upc (s : State) (c : ErrorCause) : (s.raiseError c).upc = s.upc := rfl
@[simp] theorem State.raiseError_blk (s : State) (c : ErrorCause) : (s.raiseError c).blk = s.blk := rfl
@[simp] theorem State.raiseError_ch (s : State) (c : ErrorCause) : (s.raiseError c).ch = s.ch := rfl
@[simp] theorem State.raiseError_po (s : State) (c : ErrorCause) : (s.raiseError c).po = s.po := rfl
@[simp] theorem State.raiseError_r (s : State) (c : ErrorCause) : (s.raiseError c).r = s.r := rfl
@[simp] theorem State.raiseError_q (s : State) (c : ErrorCause) : (s.raiseError c).q = s.q := rfl
@[simp] theorem State.raiseError_t (s : State) (c : ErrorCause) : (s.raiseError c).t = s.t := rfl
@[simp] theorem State.raiseError_nt (s : State) (c : ErrorCause) : (s.raiseError c).nt = s.nt := rfl
@[simp] theorem State.raiseError_nb (s : State) (c : ErrorCause) : (s.raiseError c).nb = s.nb := rfl
@[simp] theorem State.raiseError_n (s : State) (c : ErrorCause) : (s.raiseError c).n = s.n := rfl
@[simp] theorem State.raiseError_rst (s : State) (c : ErrorCause) : (s.raiseError c).rst = s.rst := rfl
@[simp] theorem State.raiseError_resp (s : State) (c : ErrorCause) : (s.raiseError c).resp = s.resp := rfl
@[simp] theorem State.raiseError_sched (s : State) (c : ErrorCause) : (s.raiseError c).sched = s.sched := rfl

/-! ## `clearError` -/

@[simp] theorem State.clearError_ie (s : State) : (s.clearError).ie = s.ie := rfl
@[simp] theorem State.clearError_busy (s : State) : (s.clearError).busy = s.busy := rfl
@[simp] theorem State.clearError_done (s : State) : (s.clearError).done = s.done := rfl
@[simp] theorem State.clearError_err (s : State) : (s.clearError).err = false := rfl
@[simp] theorem State.clearError_werr (s : State) : (s.clearError).werr = s.werr := rfl
@[simp] theorem State.clearError_cause (s : State) : (s.clearError).cause = 0 := rfl
@[simp] theorem State.clearError_len (s : State) : (s.clearError).len = s.len := rfl
@[simp] theorem State.clearError_out (s : State) : (s.clearError).out = s.out := rfl
@[simp] theorem State.clearError_msg (s : State) : (s.clearError).msg = s.msg := rfl
@[simp] theorem State.clearError_acc (s : State) : (s.clearError).acc = s.acc := rfl
@[simp] theorem State.clearError_pre (s : State) : (s.clearError).pre = s.pre := rfl
@[simp] theorem State.clearError_tail (s : State) : (s.clearError).tail = s.tail := rfl
@[simp] theorem State.clearError_upc (s : State) : (s.clearError).upc = s.upc := rfl
@[simp] theorem State.clearError_blk (s : State) : (s.clearError).blk = s.blk := rfl
@[simp] theorem State.clearError_ch (s : State) : (s.clearError).ch = s.ch := rfl
@[simp] theorem State.clearError_po (s : State) : (s.clearError).po = s.po := rfl
@[simp] theorem State.clearError_r (s : State) : (s.clearError).r = s.r := rfl
@[simp] theorem State.clearError_q (s : State) : (s.clearError).q = s.q := rfl
@[simp] theorem State.clearError_t (s : State) : (s.clearError).t = s.t := rfl
@[simp] theorem State.clearError_nt (s : State) : (s.clearError).nt = s.nt := rfl
@[simp] theorem State.clearError_nb (s : State) : (s.clearError).nb = s.nb := rfl
@[simp] theorem State.clearError_n (s : State) : (s.clearError).n = s.n := rfl
@[simp] theorem State.clearError_rst (s : State) : (s.clearError).rst = s.rst := rfl
@[simp] theorem State.clearError_resp (s : State) : (s.clearError).resp = s.resp := rfl
@[simp] theorem State.clearError_sched (s : State) : (s.clearError).sched = s.sched := rfl

/-! ## `dropWrite` -/

@[simp] theorem State.dropWrite_ie (s : State) : (s.dropWrite).ie = s.ie := rfl
@[simp] theorem State.dropWrite_busy (s : State) : (s.dropWrite).busy = s.busy := rfl
@[simp] theorem State.dropWrite_done (s : State) : (s.dropWrite).done = s.done := rfl
@[simp] theorem State.dropWrite_err (s : State) : (s.dropWrite).err = s.err := rfl
@[simp] theorem State.dropWrite_werr (s : State) : (s.dropWrite).werr = true := rfl
@[simp] theorem State.dropWrite_cause (s : State) : (s.dropWrite).cause = s.cause := rfl
@[simp] theorem State.dropWrite_len (s : State) : (s.dropWrite).len = s.len := rfl
@[simp] theorem State.dropWrite_out (s : State) : (s.dropWrite).out = s.out := rfl
@[simp] theorem State.dropWrite_msg (s : State) : (s.dropWrite).msg = s.msg := rfl
@[simp] theorem State.dropWrite_acc (s : State) : (s.dropWrite).acc = s.acc := rfl
@[simp] theorem State.dropWrite_pre (s : State) : (s.dropWrite).pre = s.pre := rfl
@[simp] theorem State.dropWrite_tail (s : State) : (s.dropWrite).tail = s.tail := rfl
@[simp] theorem State.dropWrite_upc (s : State) : (s.dropWrite).upc = s.upc := rfl
@[simp] theorem State.dropWrite_blk (s : State) : (s.dropWrite).blk = s.blk := rfl
@[simp] theorem State.dropWrite_ch (s : State) : (s.dropWrite).ch = s.ch := rfl
@[simp] theorem State.dropWrite_po (s : State) : (s.dropWrite).po = s.po := rfl
@[simp] theorem State.dropWrite_r (s : State) : (s.dropWrite).r = s.r := rfl
@[simp] theorem State.dropWrite_q (s : State) : (s.dropWrite).q = s.q := rfl
@[simp] theorem State.dropWrite_t (s : State) : (s.dropWrite).t = s.t := rfl
@[simp] theorem State.dropWrite_nt (s : State) : (s.dropWrite).nt = s.nt := rfl
@[simp] theorem State.dropWrite_nb (s : State) : (s.dropWrite).nb = s.nb := rfl
@[simp] theorem State.dropWrite_n (s : State) : (s.dropWrite).n = s.n := rfl
@[simp] theorem State.dropWrite_rst (s : State) : (s.dropWrite).rst = s.rst := rfl
@[simp] theorem State.dropWrite_resp (s : State) : (s.dropWrite).resp = s.resp := rfl
@[simp] theorem State.dropWrite_sched (s : State) : (s.dropWrite).sched = s.sched := rfl

/-! ## `clearOutcome` -/

@[simp] theorem State.clearOutcome_ie (s : State) : (s.clearOutcome).ie = s.ie := rfl
@[simp] theorem State.clearOutcome_busy (s : State) : (s.clearOutcome).busy = s.busy := rfl
@[simp] theorem State.clearOutcome_done (s : State) : (s.clearOutcome).done = false := rfl
@[simp] theorem State.clearOutcome_err (s : State) : (s.clearOutcome).err = false := rfl
@[simp] theorem State.clearOutcome_werr (s : State) : (s.clearOutcome).werr = false := rfl
@[simp] theorem State.clearOutcome_cause (s : State) : (s.clearOutcome).cause = 0 := rfl
@[simp] theorem State.clearOutcome_len (s : State) : (s.clearOutcome).len = s.len := rfl
@[simp] theorem State.clearOutcome_out (s : State) : (s.clearOutcome).out = s.out := rfl
@[simp] theorem State.clearOutcome_msg (s : State) : (s.clearOutcome).msg = s.msg := rfl
@[simp] theorem State.clearOutcome_acc (s : State) : (s.clearOutcome).acc = s.acc := rfl
@[simp] theorem State.clearOutcome_pre (s : State) : (s.clearOutcome).pre = s.pre := rfl
@[simp] theorem State.clearOutcome_tail (s : State) : (s.clearOutcome).tail = s.tail := rfl
@[simp] theorem State.clearOutcome_upc (s : State) : (s.clearOutcome).upc = s.upc := rfl
@[simp] theorem State.clearOutcome_blk (s : State) : (s.clearOutcome).blk = s.blk := rfl
@[simp] theorem State.clearOutcome_ch (s : State) : (s.clearOutcome).ch = s.ch := rfl
@[simp] theorem State.clearOutcome_po (s : State) : (s.clearOutcome).po = s.po := rfl
@[simp] theorem State.clearOutcome_r (s : State) : (s.clearOutcome).r = s.r := rfl
@[simp] theorem State.clearOutcome_q (s : State) : (s.clearOutcome).q = s.q := rfl
@[simp] theorem State.clearOutcome_t (s : State) : (s.clearOutcome).t = s.t := rfl
@[simp] theorem State.clearOutcome_nt (s : State) : (s.clearOutcome).nt = s.nt := rfl
@[simp] theorem State.clearOutcome_nb (s : State) : (s.clearOutcome).nb = s.nb := rfl
@[simp] theorem State.clearOutcome_n (s : State) : (s.clearOutcome).n = s.n := rfl
@[simp] theorem State.clearOutcome_rst (s : State) : (s.clearOutcome).rst = s.rst := rfl
@[simp] theorem State.clearOutcome_resp (s : State) : (s.clearOutcome).resp = s.resp := rfl
@[simp] theorem State.clearOutcome_sched (s : State) : (s.clearOutcome).sched = s.sched := rfl

/-! ## `setIe` -/

@[simp] theorem State.setIe_ie (s : State) (d : Word32) : (s.setIe d).ie = d[2] := rfl
@[simp] theorem State.setIe_busy (s : State) (d : Word32) : (s.setIe d).busy = s.busy := rfl
@[simp] theorem State.setIe_done (s : State) (d : Word32) : (s.setIe d).done = s.done := rfl
@[simp] theorem State.setIe_err (s : State) (d : Word32) : (s.setIe d).err = s.err := rfl
@[simp] theorem State.setIe_werr (s : State) (d : Word32) : (s.setIe d).werr = s.werr := rfl
@[simp] theorem State.setIe_cause (s : State) (d : Word32) : (s.setIe d).cause = s.cause := rfl
@[simp] theorem State.setIe_len (s : State) (d : Word32) : (s.setIe d).len = s.len := rfl
@[simp] theorem State.setIe_out (s : State) (d : Word32) : (s.setIe d).out = s.out := rfl
@[simp] theorem State.setIe_msg (s : State) (d : Word32) : (s.setIe d).msg = s.msg := rfl
@[simp] theorem State.setIe_acc (s : State) (d : Word32) : (s.setIe d).acc = s.acc := rfl
@[simp] theorem State.setIe_pre (s : State) (d : Word32) : (s.setIe d).pre = s.pre := rfl
@[simp] theorem State.setIe_tail (s : State) (d : Word32) : (s.setIe d).tail = s.tail := rfl
@[simp] theorem State.setIe_upc (s : State) (d : Word32) : (s.setIe d).upc = s.upc := rfl
@[simp] theorem State.setIe_blk (s : State) (d : Word32) : (s.setIe d).blk = s.blk := rfl
@[simp] theorem State.setIe_ch (s : State) (d : Word32) : (s.setIe d).ch = s.ch := rfl
@[simp] theorem State.setIe_po (s : State) (d : Word32) : (s.setIe d).po = s.po := rfl
@[simp] theorem State.setIe_r (s : State) (d : Word32) : (s.setIe d).r = s.r := rfl
@[simp] theorem State.setIe_q (s : State) (d : Word32) : (s.setIe d).q = s.q := rfl
@[simp] theorem State.setIe_t (s : State) (d : Word32) : (s.setIe d).t = s.t := rfl
@[simp] theorem State.setIe_nt (s : State) (d : Word32) : (s.setIe d).nt = s.nt := rfl
@[simp] theorem State.setIe_nb (s : State) (d : Word32) : (s.setIe d).nb = s.nb := rfl
@[simp] theorem State.setIe_n (s : State) (d : Word32) : (s.setIe d).n = s.n := rfl
@[simp] theorem State.setIe_rst (s : State) (d : Word32) : (s.setIe d).rst = s.rst := rfl
@[simp] theorem State.setIe_resp (s : State) (d : Word32) : (s.setIe d).resp = s.resp := rfl
@[simp] theorem State.setIe_sched (s : State) (d : Word32) : (s.setIe d).sched = s.sched := rfl

/-! ## `beginHash` -/

@[simp] theorem State.beginHash_ie (s : State) : (s.beginHash).ie = s.ie := rfl
@[simp] theorem State.beginHash_busy (s : State) : (s.beginHash).busy = true := rfl
@[simp] theorem State.beginHash_done (s : State) : (s.beginHash).done = s.done := rfl
@[simp] theorem State.beginHash_err (s : State) : (s.beginHash).err = s.err := rfl
@[simp] theorem State.beginHash_werr (s : State) : (s.beginHash).werr = s.werr := rfl
@[simp] theorem State.beginHash_cause (s : State) : (s.beginHash).cause = s.cause := rfl
@[simp] theorem State.beginHash_len (s : State) : (s.beginHash).len = s.len := rfl
@[simp] theorem State.beginHash_out (s : State) : (s.beginHash).out = s.out := rfl
@[simp] theorem State.beginHash_msg (s : State) : (s.beginHash).msg = s.msg := rfl
@[simp] theorem State.beginHash_acc (s : State) : (s.beginHash).acc = s.acc := rfl
@[simp] theorem State.beginHash_pre (s : State) : (s.beginHash).pre = s.pre := rfl
@[simp] theorem State.beginHash_tail (s : State) : (s.beginHash).tail = s.tail := rfl
@[simp] theorem State.beginHash_upc (s : State) : (s.beginHash).upc = firstMicroOp (tailCount s.len) := rfl
@[simp] theorem State.beginHash_blk (s : State) : (s.beginHash).blk = s.blk := rfl
@[simp] theorem State.beginHash_ch (s : State) : (s.beginHash).ch = s.ch := rfl
@[simp] theorem State.beginHash_po (s : State) : (s.beginHash).po = s.po := rfl
@[simp] theorem State.beginHash_r (s : State) : (s.beginHash).r = s.r := rfl
@[simp] theorem State.beginHash_q (s : State) : (s.beginHash).q = s.q := rfl
@[simp] theorem State.beginHash_t (s : State) : (s.beginHash).t = 0 := rfl
@[simp] theorem State.beginHash_nt (s : State) : (s.beginHash).nt = tailCount s.len := rfl
@[simp] theorem State.beginHash_nb (s : State) : (s.beginHash).nb = s.nb := rfl
@[simp] theorem State.beginHash_n (s : State) : (s.beginHash).n = s.len.setWidth 64 := rfl
@[simp] theorem State.beginHash_rst (s : State) : (s.beginHash).rst = s.rst := rfl
@[simp] theorem State.beginHash_resp (s : State) : (s.beginHash).resp = s.resp := rfl
@[simp] theorem State.beginHash_sched (s : State) : (s.beginHash).sched = s.sched := rfl

/-! ## `clearCommand` -/

@[simp] theorem State.clearCommand_ie (s : State) : (s.clearCommand).ie = s.ie := rfl
@[simp] theorem State.clearCommand_busy (s : State) : (s.clearCommand).busy = false := rfl
@[simp] theorem State.clearCommand_done (s : State) : (s.clearCommand).done = false := rfl
@[simp] theorem State.clearCommand_err (s : State) : (s.clearCommand).err = false := rfl
@[simp] theorem State.clearCommand_werr (s : State) : (s.clearCommand).werr = false := rfl
@[simp] theorem State.clearCommand_cause (s : State) : (s.clearCommand).cause = 0 := rfl
@[simp] theorem State.clearCommand_len (s : State) : (s.clearCommand).len = s.len := rfl
@[simp] theorem State.clearCommand_out (s : State) : (s.clearCommand).out = Factor.zero := rfl
@[simp] theorem State.clearCommand_msg (s : State) : (s.clearCommand).msg = s.msg := rfl
@[simp] theorem State.clearCommand_acc (s : State) : (s.clearCommand).acc = Factor.zero := rfl
@[simp] theorem State.clearCommand_pre (s : State) : (s.clearCommand).pre = Factor.zero := rfl
@[simp] theorem State.clearCommand_tail (s : State) : (s.clearCommand).tail = s.tail := rfl
@[simp] theorem State.clearCommand_upc (s : State) : (s.clearCommand).upc = upcIdle := rfl
@[simp] theorem State.clearCommand_blk (s : State) : (s.clearCommand).blk = 0 := rfl
@[simp] theorem State.clearCommand_ch (s : State) : (s.clearCommand).ch = 0 := rfl
@[simp] theorem State.clearCommand_po (s : State) : (s.clearCommand).po = 0 := rfl
@[simp] theorem State.clearCommand_r (s : State) : (s.clearCommand).r = 0 := rfl
@[simp] theorem State.clearCommand_q (s : State) : (s.clearCommand).q = 0 := rfl
@[simp] theorem State.clearCommand_t (s : State) : (s.clearCommand).t = 0 := rfl
@[simp] theorem State.clearCommand_nt (s : State) : (s.clearCommand).nt = 0 := rfl
@[simp] theorem State.clearCommand_nb (s : State) : (s.clearCommand).nb = 0 := rfl
@[simp] theorem State.clearCommand_n (s : State) : (s.clearCommand).n = 0 := rfl
@[simp] theorem State.clearCommand_rst (s : State) : (s.clearCommand).rst = s.rst := rfl
@[simp] theorem State.clearCommand_resp (s : State) : (s.clearCommand).resp = s.resp := rfl
@[simp] theorem State.clearCommand_sched (s : State) : (s.clearCommand).sched = s.sched := rfl

/-! ## `resetRegisters` -/

@[simp] theorem State.resetRegisters_ie (s : State) : (s.resetRegisters).ie = false := rfl
@[simp] theorem State.resetRegisters_busy (s : State) : (s.resetRegisters).busy = false := rfl
@[simp] theorem State.resetRegisters_done (s : State) : (s.resetRegisters).done = false := rfl
@[simp] theorem State.resetRegisters_err (s : State) : (s.resetRegisters).err = false := rfl
@[simp] theorem State.resetRegisters_werr (s : State) : (s.resetRegisters).werr = false := rfl
@[simp] theorem State.resetRegisters_cause (s : State) : (s.resetRegisters).cause = 0 := rfl
@[simp] theorem State.resetRegisters_len (s : State) : (s.resetRegisters).len = 0 := rfl
@[simp] theorem State.resetRegisters_out (s : State) : (s.resetRegisters).out = Factor.zero := rfl
@[simp] theorem State.resetRegisters_msg (s : State) : (s.resetRegisters).msg = ⟨s.msg.draw + 1, []⟩ := rfl
@[simp] theorem State.resetRegisters_acc (s : State) : (s.resetRegisters).acc = Factor.zero := rfl
@[simp] theorem State.resetRegisters_pre (s : State) : (s.resetRegisters).pre = Factor.zero := rfl
@[simp] theorem State.resetRegisters_tail (s : State) : (s.resetRegisters).tail = Vector.replicate 63 0 := rfl
@[simp] theorem State.resetRegisters_upc (s : State) : (s.resetRegisters).upc = upcIdle := rfl
@[simp] theorem State.resetRegisters_blk (s : State) : (s.resetRegisters).blk = 0 := rfl
@[simp] theorem State.resetRegisters_ch (s : State) : (s.resetRegisters).ch = 0 := rfl
@[simp] theorem State.resetRegisters_po (s : State) : (s.resetRegisters).po = 0 := rfl
@[simp] theorem State.resetRegisters_r (s : State) : (s.resetRegisters).r = 0 := rfl
@[simp] theorem State.resetRegisters_q (s : State) : (s.resetRegisters).q = 0 := rfl
@[simp] theorem State.resetRegisters_t (s : State) : (s.resetRegisters).t = 0 := rfl
@[simp] theorem State.resetRegisters_nt (s : State) : (s.resetRegisters).nt = 0 := rfl
@[simp] theorem State.resetRegisters_nb (s : State) : (s.resetRegisters).nb = 0 := rfl
@[simp] theorem State.resetRegisters_n (s : State) : (s.resetRegisters).n = 0 := rfl
@[simp] theorem State.resetRegisters_rst (s : State) : (s.resetRegisters).rst = s.rst := rfl
@[simp] theorem State.resetRegisters_resp (s : State) : (s.resetRegisters).resp = s.resp := rfl
@[simp] theorem State.resetRegisters_sched (s : State) : (s.resetRegisters).sched = s.sched := rfl

/-! ## Accessors of the engine view -/

@[simp] theorem State.engineView_upc (s : State) : s.engineView.upc = s.upc := rfl
@[simp] theorem State.engineView_acc (s : State) : s.engineView.acc = s.acc := rfl
@[simp] theorem State.engineView_pre (s : State) : s.engineView.pre = s.pre := rfl
@[simp] theorem State.engineView_tail (s : State) : s.engineView.tail = s.tail := rfl
@[simp] theorem State.engineView_blk (s : State) : s.engineView.blk = s.blk := rfl
@[simp] theorem State.engineView_ch (s : State) : s.engineView.ch = s.ch := rfl
@[simp] theorem State.engineView_po (s : State) : s.engineView.po = s.po := rfl
@[simp] theorem State.engineView_r (s : State) : s.engineView.r = s.r := rfl
@[simp] theorem State.engineView_q (s : State) : s.engineView.q = s.q := rfl
@[simp] theorem State.engineView_t (s : State) : s.engineView.t = s.t := rfl
@[simp] theorem State.engineView_nt (s : State) : s.engineView.nt = s.nt := rfl
@[simp] theorem State.engineView_nb (s : State) : s.engineView.nb = s.nb := rfl
@[simp] theorem State.engineView_n (s : State) : s.engineView.n = s.n := rfl
@[simp] theorem State.engineView_len (s : State) : s.engineView.len = s.len := rfl
@[simp] theorem State.engineView_msg (s : State) : s.engineView.msg = s.msg := rfl

/-- A state with another schedule and another last answer shows the engine the same (R80). -/
@[simp] theorem State.engineView_answer (s : State) (v : Response) :
    (s.answer v).engineView = s.engineView := rfl

@[simp] theorem State.engineView_dropWrite (s : State) : s.dropWrite.engineView = s.engineView := rfl

@[simp] theorem State.engineView_setIe (s : State) (d : Word32) :
    (s.setIe d).engineView = s.engineView := rfl

end Sys2Proof.Machine
end

