-- ==== Sys2Proof/Laws/Ops.lean ====
section
/-! SUPPORT. What each shared operation can do, said once. -/

namespace Sys2Proof.Machine

/-- The four outcomes of START (R101, R202). -/
theorem State.startCommand_cases (s : State) :
    (s.busy = true ∧ s.startCommand = s.dropWrite) ∨
    (s.busy = false ∧ s.len.toNat = 0 ∧
      s.startCommand = s.clearOutcome.raiseError .emptyInput) ∨
    (s.busy = false ∧ Config.msgCap < s.len.toNat ∧
      s.startCommand = s.clearOutcome.raiseError .lenRange) ∨
    (s.busy = false ∧ 1 ≤ s.len.toNat ∧ s.len.toNat ≤ Config.msgCap ∧
      s.startCommand = s.clearOutcome.beginHash) := by
  by_cases hb : s.busy = true
  · exact .inl ⟨hb, if_pos hb⟩
  · have hb' : s.busy = false := by simpa using hb
    by_cases h0 : s.len.toNat = 0
    · exact .inr (.inl ⟨hb', h0, by rw [startCommand, if_neg hb, if_pos h0]⟩)
    · by_cases hc : Config.msgCap < s.len.toNat
      · exact .inr (.inr (.inl ⟨hb', hc, by rw [startCommand, if_neg hb, if_neg h0, if_pos hc]⟩))
      · exact .inr (.inr (.inr
          ⟨hb', by omega, by omega, by rw [startCommand, if_neg hb, if_neg h0, if_neg hc]⟩))

/-- What START never changes. -/
theorem State.startCommand_keeps (s : State) :
    s.startCommand.ie = s.ie ∧ s.startCommand.len = s.len ∧ s.startCommand.out = s.out ∧
    s.startCommand.msg = s.msg ∧ s.startCommand.acc = s.acc ∧ s.startCommand.pre = s.pre ∧
    s.startCommand.tail = s.tail ∧ s.startCommand.blk = s.blk ∧ s.startCommand.ch = s.ch ∧
    s.startCommand.po = s.po ∧ s.startCommand.r = s.r ∧ s.startCommand.q = s.q ∧
    s.startCommand.nb = s.nb ∧ s.startCommand.rst = s.rst ∧ s.startCommand.resp = s.resp ∧
    s.startCommand.sched = s.sched := by
  obtain ⟨-, e⟩ | ⟨-, -, e⟩ | ⟨-, -, e⟩ | ⟨-, -, -, e⟩ := s.startCommand_cases <;> simp [e]

/-- `NT = (64 - (L mod 64)) mod 64` as a number (R124). -/
theorem tailCount_toNat (len : Word32) : (tailCount len).toNat = (64 - len.toNat % 64) % 64 := by
  simp [tailCount]

theorem tailCount_eq_zero (len : Word32) : tailCount len = 0 ↔ (64 - len.toNat % 64) % 64 = 0 := by
  rw [← tailCount_toNat]
  exact ⟨fun h => by rw [h]; rfl, fun h => BitVec.eq_of_toNat_eq h⟩

/-- START goes to INIT or to PAD (R101). -/
theorem firstMicroOp_cases (nt : BitVec 6) :
    (nt = 0 ∧ firstMicroOp nt = upcInit) ∨ (nt ≠ 0 ∧ firstMicroOp nt = upcPad) := by
  by_cases h : nt = 0
  · exact .inl ⟨h, if_pos h⟩
  · exact .inr ⟨h, if_neg h⟩

/-- The five outcomes of ADVANCE (R162). -/
theorem State.advance_cases (s : State) :
    (s.r.toNat < 30 ∧ s.advance = { s with r := s.r + 1, upc := upcMix }) ∨
    (30 ≤ s.r.toNat ∧ s.po.toNat < 3 ∧
      s.advance = { s with r := 0, po := s.po + 1, upc := upcMix }) ∨
    (30 ≤ s.r.toNat ∧ s.po = 3 ∧ s.ch.toNat < 3 ∧
      s.advance = { s with r := 0, po := 0, ch := s.ch + 1, upc := upcMix }) ∨
    (30 ≤ s.r.toNat ∧ s.po = 3 ∧ s.ch = 3 ∧ s.blk.toNat + 1 < s.nb.toNat ∧
      s.advance = { s with r := 0, po := 0, ch := 0, blk := s.blk + 1, upc := upcMix }) ∨
    (30 ≤ s.r.toNat ∧ s.po = 3 ∧ s.ch = 3 ∧ s.nb.toNat ≤ s.blk.toNat + 1 ∧
      s.advance = { s with r := 0, po := 0, ch := 0, upc := upcFinish }) := by
  have top : ∀ x : BitVec 2, ¬ x.toNat < 3 → x = 3 := fun x h =>
    BitVec.eq_of_toNat_eq (by have := x.isLt; simp; omega)
  by_cases hr : s.r.toNat < 30
  · exact .inl ⟨hr, if_pos hr⟩
  · refine .inr ?_
    by_cases hp : s.po.toNat < 3
    · exact .inl ⟨by omega, hp, by rw [advance, if_neg hr, if_pos hp]⟩
    · refine .inr ?_
      by_cases hc : s.ch.toNat < 3
      · exact .inl ⟨by omega, top _ hp, hc, by rw [advance, if_neg hr, if_neg hp, if_pos hc]⟩
      · refine .inr ?_
        by_cases hb : s.blk.toNat + 1 < s.nb.toNat
        · exact .inl ⟨by omega, top _ hp, top _ hc, hb,
            by rw [advance, if_neg hr, if_neg hp, if_neg hc, if_pos hb]⟩
        · exact .inr ⟨by omega, top _ hp, top _ hc, by omega,
            by rw [advance, if_neg hr, if_neg hp, if_neg hc, if_neg hb]⟩

/-- The cases of the CTRL write (R103). -/
theorem State.ctrlWrite_cases (s : State) (d : Word32) :
    (d[1] = true ∧ s.ctrlWrite d = (s.setIe d).clearCommand) ∨
    (d[1] = false ∧ d[0] = true ∧ s.ctrlWrite d = (s.setIe d).startCommand) ∨
    (d[1] = false ∧ d[0] = false ∧ s.ctrlWrite d = s.setIe d) := by
  unfold ctrlWrite
  cases h1 : d[1] <;> cases h0 : d[0] <;> simp

/-- What the STATUS write leaves of each flag (R104). -/
theorem State.statusWrite_eq (s : State) (d : Word32) :
    s.statusWrite d = { s with
      done := s.done && !d[1]
      err := s.err && !d[2]
      cause := if d[2] then 0 else s.cause
      werr := s.werr && !d[3] } := by
  simp only [statusWrite, clearDoneIf, clearErrIf, clearWerrIf, clearError]
  cases d[1] <;> cases d[2] <;> cases d[3] <;> simp

/-- An aligned read inside a register selects its bytes (R54, R55). -/
theorem byteOf_toNat (v : Word32) (k : Nat) : (byteOf v k).toNat = v.toNat / 2 ^ (8 * k) % 256 := by
  simp [byteOf, Nat.shiftRight_eq_div_pow]

/-- A byte or-ed in above a value below it adds its weight. -/
theorem or_byte_toNat (x : Word32) (y : Byte) (e : Nat) (hx : x.toNat < 2 ^ e) (he : e + 8 ≤ 32) :
    (x ||| y.setWidth 32 <<< e).toNat = x.toNat + y.toNat * 2 ^ e := by
  have hy : y.toNat * 2 ^ e < 2 ^ 32 := by
    calc y.toNat * 2 ^ e < 2 ^ 8 * 2 ^ e := Nat.mul_lt_mul_of_pos_right y.isLt (by positivity)
      _ = 2 ^ (e + 8) := by rw [← pow_add, Nat.add_comm]
      _ ≤ 2 ^ 32 := Nat.pow_le_pow_right (by omega) he
  have hm : y.toNat % 2 ^ 32 = y.toNat := Nat.mod_eq_of_lt (by have := y.isLt; omega)
  rw [BitVec.toNat_or, BitVec.toNat_shiftLeft, BitVec.toNat_setWidth, hm, Nat.shiftLeft_eq,
    Nat.mod_eq_of_lt hy, Nat.or_comm, ← Nat.shiftLeft_eq, ← Nat.shiftLeft_add_eq_or_of_lt hx,
    Nat.shiftLeft_eq, Nat.add_comm]

/-- The sum of R55 written out for each size. -/
theorem byteSum_one (g : Nat → Nat) :
    ((List.range (bytesOf .one)).map fun k => g k * 2 ^ (8 * k)).sum = g 0 := by
  have e : List.range (bytesOf .one) = [0] := rfl
  rw [e, List.map_cons, List.map_nil, List.sum_cons, List.sum_nil]
  omega

theorem byteSum_two (g : Nat → Nat) :
    ((List.range (bytesOf .two)).map fun k => g k * 2 ^ (8 * k)).sum = g 0 + g 1 * 256 := by
  have e : List.range (bytesOf .two) = [0, 1] := rfl
  rw [e, List.map_cons, List.map_cons, List.map_nil, List.sum_cons, List.sum_cons, List.sum_nil]
  omega

theorem byteSum_four (g : Nat → Nat) :
    ((List.range (bytesOf .four)).map fun k => g k * 2 ^ (8 * k)).sum =
      g 0 + g 1 * 256 + g 2 * 65536 + g 3 * 16777216 := by
  have e : List.range (bytesOf .four) = [0, 1, 2, 3] := rfl
  rw [e, List.map_cons, List.map_cons, List.map_cons, List.map_cons, List.map_nil, List.sum_cons,
    List.sum_cons, List.sum_cons, List.sum_cons, List.sum_nil]
  omega

/-- The value of the bytes of a read: `sum over k < size of f k << 8k` (R55). -/
theorem assemble_toNat (f : Nat → Byte) (n : Size) :
    (assemble f n).toNat =
      ((List.range (bytesOf n)).map fun k => (f k).toNat * 2 ^ (8 * k)).sum := by
  have b0 := (f 0).isLt
  have b1 := (f 1).isLt
  have b2 := (f 2).isLt
  have h0 : ((f 0).setWidth 32 : Word32).toNat = (f 0).toNat := by
    rw [BitVec.toNat_setWidth, Nat.mod_eq_of_lt (by omega)]
  have h1 := or_byte_toNat ((f 0).setWidth 32) (f 1) 8 (by omega) (by omega)
  have h2 := or_byte_toNat _ (f 2) 16 (by rw [h1]; omega) (by omega)
  have h3 := or_byte_toNat _ (f 3) 24 (by rw [h2, h1]; omega) (by omega)
  cases n
  · rw [byteSum_one (fun k => (f k).toNat)]
    exact h0
  · rw [byteSum_two (fun k => (f k).toNat), assemble, h1, h0]
    omega
  · rw [byteSum_four (fun k => (f k).toNat), assemble, h3, h2, h1, h0]
    omega

/-- An error entry after the flags are cleared: ERR, and CAUSE one of its two codes (R203). -/
theorem causeCode_cases (c : ErrorCause) : causeCode c = 1 ∨ causeCode c = 2 := by
  cases c <;> simp [causeCode]

end Sys2Proof.Machine
end

