-- ==== Sys2Proof/Laws/Step.lean ====
section
/-! SUPPORT. What one step and a run can do. -/

namespace Sys2Proof.Machine

/-- One step: the next turn of the schedule, or the engine's. -/
theorem step_nil {s : State} (h : s.sched = []) : step s = engineTurn s := by simp [step, h]

theorem step_cons {s : State} {e : Event} {rest : List Event} (h : s.sched = e :: rest) :
    step s = takeTurn e { s with sched := rest } := by simp [step, h]

theorem run_zero (s : State) : Sys2Proof.core.run 0 s = .next s := rfl

theorem run_succ_of_step (M : Host.Core) (k : Nat) (s t : M.State) (h : M.step s = .next t) :
    M.run (k + 1) s = M.run k t := by simp only [Host.Core.run, h]

theorem run_succ_of_next (M : Host.Core) (k : Nat) (s t : M.State) (h : M.run (k + 1) s = .next t) :
    ∃ u, M.step s = .next u ∧ M.run k u = .next t := by
  simp only [Host.Core.run] at h
  split at h
  · exact ⟨_, ‹_›, h⟩
  · cases h
  · cases h

/-- A run of k + 1 steps makes its first step and runs on. -/
theorem run_succ {s t : State} (k : Nat) (h : step s = .next t) :
    Sys2Proof.core.run (k + 1) s = Sys2Proof.core.run k t :=
  run_succ_of_step Sys2Proof.core k s t h

/-- A run that goes on made its first step. -/
theorem run_succ_inv {s t : State} {k : Nat} (h : Sys2Proof.core.run (k + 1) s = .next t) :
    ∃ u, step s = .next u ∧ Sys2Proof.core.run k u = .next t :=
  run_succ_of_next Sys2Proof.core k s t h

/-- Runs compose. -/
theorem run_add {s t : State} (j k : Nat) (h : Sys2Proof.core.run j s = .next t) :
    Sys2Proof.core.run (j + k) s = Sys2Proof.core.run k t := by
  induction j generalizing s with
  | zero =>
    cases h
    rw [Nat.zero_add]
  | succ j ih =>
    obtain ⟨u, hs, hu⟩ := run_succ_inv h
    rw [show j + 1 + k = (j + k) + 1 by omega, run_succ _ hs]
    exact ih hu

/-- An instruction stops only as PAD at t = 63. -/
theorem exec_goes_on (i : Instr) (s : State) (h : i = .pad → s.t.toNat < 63) :
    ∃ t, exec i s = .next t := by
  cases i
  case pad => exact ⟨_, dif_pos (h rfl)⟩
  case prime => simp only [exec, execPrime]; split <;> exact ⟨_, rfl⟩
  case rdMsg => simp only [exec, execRdMsg]; split <;> exact ⟨_, rfl⟩
  case wrMsg => simp only [exec, execWrMsg]; split <;> exact ⟨_, rfl⟩
  all_goals exact ⟨_, rfl⟩

/-- A micro-op decodes exactly from the codes 0x00 to 0x0C (R72, R76). -/
theorem decodeMicro_reserved {op : BitVec 5} (h : 0x0D ≤ op.toNat) :
    decodeMicro op = .error (.reservedMicroOp op) := by
  revert h
  revert op
  decide

theorem decodeMicro_ok {op : BitVec 5} (h : op.toNat ≤ 0x0C) : ∃ i, decodeMicro op = .ok i := by
  have key : ∀ op : BitVec 5, op.toNat ≤ 0x0C → (decodeMicro op).toOption.isSome := by decide
  have := key op h
  cases hd : decodeMicro op with
  | ok i => exact ⟨i, rfl⟩
  | error e => rw [hd] at this; cases this

/-- The micro-op that each code names (R72). -/
theorem decodeMicro_cases {u : BitVec 5} {i : Instr} (h : decodeMicro u = .ok i) :
    (u = 0x00 ∧ i = .idle) ∨ (u = 0x01 ∧ i = .pad) ∨ (u = 0x02 ∧ i = .init) ∨
    (u = 0x03 ∧ i = .mix) ∨ (u = 0x04 ∧ i = .capt) ∨ (u = 0x05 ∧ i = .alpha) ∨
    (u = 0x06 ∧ i = .delta) ∨ (u = 0x07 ∧ i = .theta) ∨ (u = 0x08 ∧ i = .gamma) ∨
    (u = 0x09 ∧ i = .prime) ∨ (u = 0x0A ∧ i = .shuf) ∨ (u = 0x0B ∧ i = .add) ∨
    (u = 0x0C ∧ i = .finish) := by
  have key : ∀ u : BitVec 5, ∀ i ∈ (decodeMicro u).toOption,
      (u = 0x00 ∧ i = .idle) ∨ (u = 0x01 ∧ i = .pad) ∨ (u = 0x02 ∧ i = .init) ∨
      (u = 0x03 ∧ i = .mix) ∨ (u = 0x04 ∧ i = .capt) ∨ (u = 0x05 ∧ i = .alpha) ∨
      (u = 0x06 ∧ i = .delta) ∨ (u = 0x07 ∧ i = .theta) ∨ (u = 0x08 ∧ i = .gamma) ∨
      (u = 0x09 ∧ i = .prime) ∨ (u = 0x0A ∧ i = .shuf) ∨ (u = 0x0B ∧ i = .add) ∨
      (u = 0x0C ∧ i = .finish) := by decide
  exact key u i (by rw [h]; rfl)

/-- A read decodes to no micro-op. -/
theorem decodeRead_isMicroOp (a : Word32) (n : Size) (i : Item) :
    (decodeRead a n i).isMicroOp = false := by
  cases i with
  | digest b => cases b <;> rfl
  | _ => rfl

/-- A write decodes to no micro-op. -/
theorem decodeWrite_isMicroOp (a : Word32) (n : Size) (d : Word32) (i : Item) :
    (decodeWrite a n d i).isMicroOp = false := by
  cases i <;> simp only [decodeWrite] <;> first | rfl | (split <;> rfl)

/-- What the host sends never decodes to a micro-op (R70). -/
theorem decode_host {e : Encoding} (he : ∀ op, e ≠ .micro op) {i : Instr} (h : decode e = .ok i) :
    i.isMicroOp = false := by
  cases e with
  | micro op => exact absurd rfl (he op)
  | command d =>
    simp only [decode, decodeCommand] at h
    split_ifs at h <;> cases h <;> rfl
  | bus t =>
    cases h
    cases t with
    | read a n =>
      simp only [decodeBus]
      split
      · split
        · exact decodeRead_isMicroOp _ _ _
        · rfl
      · rfl
    | write a n d =>
      simp only [decodeBus]
      split
      · split
        · exact decodeWrite_isMicroOp _ _ _ _
        · rfl
      · rfl

/-- An engine that is not held in reset runs the micro-op in `upc`. -/
theorem step_engine {s : State} (hr : s.rst = false) (hs : s.sched = []) :
    step s = runEncoding (.micro s.upc) s := by
  rw [step_nil hs, engineTurn, hr]
  rfl

end Sys2Proof.Machine
end

