-- ==== Sys2Proof/Laws/Host.lean ====
section
/-! SUPPORT. Everything a turn can do: the host's (40_host_interface.md), the engine's (30_encoding.md
R80), and a step's. -/

namespace Sys2Proof.Machine

/-- Every read of a transaction changes the answer only (R59). -/
theorem exec_decodeRead (a : Word32) (n : Size) (i : Item) (s : State) :
    ∃ r, exec (decodeRead a n i) s = .next (s.answer r) := by
  have reg : ∀ it v off, ∃ r, readRegister it v off n s = s.answer r := by
    intro it v off
    unfold readRegister
    split <;> exact ⟨_, rfl⟩
  have dig : ∀ b off, ∃ r, readDigest b off n s = s.answer r := by
    intro b off
    unfold readDigest
    split <;> exact ⟨_, rfl⟩
  cases i
  case msg =>
    simp only [decodeRead, exec, execRdMsg]
    split <;> exact ⟨_, rfl⟩
  case digest b =>
    cases b <;> exact (dig _ _).imp fun _ h => congrArg Host.Outcome.next h
  all_goals exact (reg _ _ _).imp fun _ h => congrArg Host.Outcome.next h

/-- What a transaction runs: an answer only, or one of the four writes. -/
theorem run_bus_cases (t : Transaction) (s : State) :
    (∃ r, runEncoding (.bus t) s = .next (s.answer r)) ∨
    (∃ d, t = .write 0x004 .four d ∧
      runEncoding (.bus t) s = .next ((s.ctrlWrite d).answer .writeDone)) ∨
    (∃ d, t = .write 0x008 .four d ∧
      runEncoding (.bus t) s = .next ((s.statusWrite d).answer .writeDone)) ∨
    (∃ d, t = .write 0x010 .four d ∧
      runEncoding (.bus t) s = .next ((s.lenWrite d).answer .writeDone)) ∨
    (∃ a n d, t = .write a n d ∧ 0x1000 ≤ a.toNat ∧ a.toNat % bytesOf n = 0 ∧
      a.toNat + bytesOf n ≤ 0x1000 + Config.msgCap ∧
      runEncoding (.bus t) s = .next ((s.msgWrite (a.toNat - 0x1000) n d).answer .writeDone)) := by
  have err : ∀ t', ∃ r, exec (.busErr t') s = .next (s.answer r) := fun t' => ⟨_, rfl⟩
  cases t with
  | read a n =>
    refine .inl ?_
    simp only [runEncoding, decode, decodeBus]
    split
    · split
      · exact exec_decodeRead _ _ _ s
      · exact err _
    · exact err _
  | write a n d =>
    simp only [runEncoding, decode, decodeBus]
    split
    next ha =>
      split
      next i hi =>
        by_cases hm : 0x1000 ≤ a.toNat
        · rw [itemOf_msg hm] at hi
          split at hi
          next hw =>
            cases hi
            refine .inr (.inr (.inr (.inr ⟨a, n, d, rfl, hm, by simpa [aligned] using ha, hw, ?_⟩)))
            have hin : inMsgWindow a.toNat n = true := by
              simp [inMsgWindow, msgBase]
              omega
            simp [decodeWrite, exec, execWrMsg, ha, hin, msgBase]
          next => cases hi
        · rw [itemOf_register (by omega)] at hi
          obtain ⟨hne, hlo, hhi⟩ := registerItem_bounds hi
          have addr : ∀ b : Word32, n = .four → itemBase i = b.toNat → itemBytes i = 4 → a = b := by
            rintro b rfl h1 h2
            have h3 := itemBase_mod i
            rw [h2] at h3 hhi
            simp [aligned, bytesOf] at ha
            exact BitVec.eq_of_toNat_eq (by omega)
          cases i
          case msg => exact absurd rfl hne
          case ctrl =>
            simp only [decodeWrite]
            split
            next hn => exact .inr (.inl ⟨d, by rw [addr 0x004 hn rfl rfl, hn], rfl⟩)
            next => exact .inl (err _)
          case status =>
            simp only [decodeWrite]
            split
            next hn => exact .inr (.inr (.inl ⟨d, by rw [addr 0x008 hn rfl rfl, hn], rfl⟩))
            next => exact .inl (err _)
          case len =>
            simp only [decodeWrite]
            split
            next hn => exact .inr (.inr (.inr (.inl ⟨d, by rw [addr 0x010 hn rfl rfl, hn], rfl⟩)))
            next => exact .inl (err _)
          all_goals exact .inl (err _)
      next => exact .inl (err _)
    next => exact .inl (err _)

/-- What a command runs: the CTRL write of its data, whichever of the three it is (log 21). -/
theorem run_command (d : Word32) (s : State) :
    runEncoding (.command d) s = .next ((s.ctrlWrite d).answer .writeDone) := by
  simp only [runEncoding, decode, decodeCommand]
  obtain ⟨h1, e⟩ | ⟨h1, h0, e⟩ | ⟨h1, h0, e⟩ := s.ctrlWrite_cases d <;> rw [e] <;>
    simp [*, exec, execClear, execStart, execSetie]

/-- The five outcomes of the CTRL write (R103, R101). -/
theorem State.ctrlWrite_outcomes (s : State) (d : Word32) :
    (d[1] = true ∧ s.ctrlWrite d = (s.setIe d).clearCommand) ∨
    (d[1] = false ∧ d[0] = true ∧ s.busy = true ∧ s.ctrlWrite d = (s.setIe d).dropWrite) ∨
    (d[1] = false ∧ d[0] = true ∧ s.busy = false ∧
      (s.len.toNat = 0 ∨ Config.msgCap < s.len.toNat) ∧
      ∃ c, s.ctrlWrite d = (s.setIe d).clearOutcome.raiseError c) ∨
    (d[1] = false ∧ d[0] = true ∧ s.busy = false ∧ 1 ≤ s.len.toNat ∧
      s.len.toNat ≤ Config.msgCap ∧ s.ctrlWrite d = (s.setIe d).clearOutcome.beginHash) ∨
    (d[1] = false ∧ d[0] = false ∧ s.ctrlWrite d = s.setIe d) := by
  rcases s.ctrlWrite_cases d with ⟨h, e⟩ | ⟨h1, h0, e⟩ | ⟨h1, h0, e⟩
  · exact .inl ⟨h, e⟩
  · obtain ⟨hb, e'⟩ | ⟨hb, hl, e'⟩ | ⟨hb, hl, e'⟩ | ⟨hb, hl, hc, e'⟩ :=
      (s.setIe d).startCommand_cases
    · exact .inr (.inl ⟨h1, h0, hb, by rw [e, e']⟩)
    · exact .inr (.inr (.inl ⟨h1, h0, hb, .inl hl, _, by rw [e, e']⟩))
    · exact .inr (.inr (.inl ⟨h1, h0, hb, .inr hl, _, by rw [e, e']⟩))
    · exact .inr (.inr (.inr (.inl ⟨h1, h0, hb, hl, hc, by rw [e, e']⟩)))
  · exact .inr (.inr (.inr (.inr ⟨h1, h0, e⟩)))

/-- Everything a turn of the host can do: ignored in reset, an answer, or one of the writes. -/
theorem hostTurn_cases {e : Encoding} {s t : State} (he : ∀ op, e ≠ .micro op)
    (h : hostTurn e s = .next t) :
    (s.rst = true ∧ t = { s with resp := none }) ∨
    (∃ r, t = s.answer r) ∨
    (∃ d, (e = .command d ∨ e = .bus (.write 0x004 .four d)) ∧
      t = (s.ctrlWrite d).answer .writeDone) ∨
    (∃ d, e = .bus (.write 0x008 .four d) ∧ t = (s.statusWrite d).answer .writeDone) ∨
    (∃ d, e = .bus (.write 0x010 .four d) ∧ t = (s.lenWrite d).answer .writeDone) ∨
    (∃ a n d, e = .bus (.write a n d) ∧ 0x1000 ≤ a.toNat ∧ a.toNat % bytesOf n = 0 ∧
      a.toNat + bytesOf n ≤ 0x1000 + Config.msgCap ∧
      t = (s.msgWrite (a.toNat - 0x1000) n d).answer .writeDone) := by
  unfold hostTurn at h
  split at h
  · next hr =>
    cases h
    exact .inl ⟨hr, rfl⟩
  · cases e with
    | micro op => exact absurd rfl (he op)
    | command d =>
      rw [run_command] at h
      cases h
      exact .inr (.inr (.inl ⟨d, .inl rfl, rfl⟩))
    | bus x =>
      rcases run_bus_cases x s with ⟨r, e⟩ | ⟨d, rfl, e⟩ | ⟨d, rfl, e⟩ | ⟨d, rfl, e⟩ |
        ⟨a, n, d, rfl, h1, h2, h3, e⟩ <;> rw [e] at h <;> cases h
      · exact .inr (.inl ⟨r, rfl⟩)
      · exact .inr (.inr (.inl ⟨d, .inr rfl, rfl⟩))
      · exact .inr (.inr (.inr (.inl ⟨d, rfl, rfl⟩)))
      · exact .inr (.inr (.inr (.inr (.inl ⟨d, rfl, rfl⟩))))
      · exact .inr (.inr (.inr (.inr (.inr ⟨a, n, d, rfl, h1, h2, h3, rfl⟩))))

/-- Everything the engine's turn can do, by the group of its micro-op (R80). -/
theorem engineTurn_cases {s t : State} (h : engineTurn s = .next t) :
    t = s ∨
    (s.upc = 0x01 ∧ t = { s with tail := t.tail, n := t.n, t := t.t, upc := t.upc }) ∨
    (s.upc = 0x02 ∧ t = { s with
      acc := t.acc, nb := t.nb, blk := t.blk, ch := t.ch, po := t.po, r := t.r, upc := t.upc }) ∨
    (s.upc = 0x04 ∧ t = { s with pre := t.pre, upc := t.upc }) ∨
    ((3 ≤ s.upc.toNat ∧ s.upc.toNat ≤ 0x0B ∧ s.upc ≠ 0x04) ∧ t = { s with
      acc := t.acc, q := t.q, blk := t.blk, ch := t.ch, po := t.po, r := t.r, upc := t.upc }) ∨
    (s.upc = 0x0C ∧ t = { s with out := s.acc, busy := false, done := true, upc := 0x00 }) := by
  unfold engineTurn at h
  split at h
  · cases h
    exact .inl rfl
  · unfold runEncoding at h
    split at h
    · next i hi =>
      rcases decodeMicro_cases hi with ⟨hu, rfl⟩ | ⟨hu, rfl⟩ | ⟨hu, rfl⟩ | ⟨hu, rfl⟩ | ⟨hu, rfl⟩ |
        ⟨hu, rfl⟩ | ⟨hu, rfl⟩ | ⟨hu, rfl⟩ | ⟨hu, rfl⟩ | ⟨hu, rfl⟩ | ⟨hu, rfl⟩ | ⟨hu, rfl⟩ | ⟨hu, rfl⟩
      case inl => cases h; exact .inl rfl
      case inr.inl =>
        simp only [exec, execPad] at h
        split at h <;> cases h
        exact .inr (.inl ⟨hu, rfl⟩)
      case inr.inr.inl => cases h; exact .inr (.inr (.inl ⟨hu, rfl⟩))
      case inr.inr.inr.inr.inl => cases h; exact .inr (.inr (.inr (.inl ⟨hu, rfl⟩)))
      case inr.inr.inr.inr.inr.inr.inr.inr.inr.inr.inr.inr =>
        cases h
        exact .inr (.inr (.inr (.inr (.inr ⟨hu, rfl⟩))))
      all_goals
        refine .inr (.inr (.inr (.inr (.inl ⟨by rw [hu]; decide, ?_⟩))))
      case inr.inr.inr.inr.inr.inr.inr.inr.inr.inl =>
        simp only [exec, execPrime] at h
        split at h <;> cases h <;> rfl
      case inr.inr.inr.inr.inr.inr.inr.inr.inr.inr.inr.inl =>
        simp only [exec, execAdd] at h
        cases h
        obtain ⟨-, e⟩ | ⟨-, -, e⟩ | ⟨-, -, -, e⟩ | ⟨-, -, -, -, e⟩ | ⟨-, -, -, -, e⟩ :=
          State.advance_cases { s with acc := addFactor s.pre s.acc } <;> rw [e]
      all_goals
        cases h
        rfl
    · cases h

/-- Whose turn a step takes. -/
theorem step_cases {s t : State} (h : step s = .next t) :
    (s.sched = [] ∧ engineTurn s = .next t) ∨
    (∃ rest, s.sched = .engine :: rest ∧ engineTurn { s with sched := rest } = .next t) ∨
    (∃ d rest, s.sched = .command d :: rest ∧
      hostTurn (.command d) { s with sched := rest } = .next t) ∨
    (∃ x rest, s.sched = .bus x :: rest ∧ hostTurn (.bus x) { s with sched := rest } = .next t) ∨
    (∃ rest, s.sched = .rst true :: rest ∧
      t = { State.resetRegisters { s with sched := rest } with rst := true }) ∨
    (∃ rest, s.sched = .rst false :: rest ∧ t = { s with sched := rest, rst := false }) := by
  unfold step at h
  split at h
  · next hs => exact .inl ⟨hs, h⟩
  · next e rest hs =>
    cases e with
    | engine => exact .inr (.inl ⟨rest, hs, h⟩)
    | command d => exact .inr (.inr (.inl ⟨d, rest, hs, h⟩))
    | bus x => exact .inr (.inr (.inr (.inl ⟨x, rest, hs, h⟩)))
    | rst b =>
      cases h
      cases b
      · exact .inr (.inr (.inr (.inr (.inr ⟨rest, hs, rfl⟩))))
      · exact .inr (.inr (.inr (.inr (.inl ⟨rest, hs, rfl⟩))))

/-! ## The end of a run (R234) -/

/-- A turn that is not the host's is the engine's or a change of the reset input. -/
theorem Event.isHost_eq_false {e : Event} : e.isHost = false ↔ e = .engine ∨ ∃ b, e = .rst b := by
  cases e <;> simp [Event.isHost]

theorem State.hostDone_iff {s : State} :
    s.hostDone ↔ ∀ e ∈ s.sched, e = .engine ∨ ∃ b, e = .rst b := by
  simp only [State.hostDone, Event.isHost_eq_false]

/-- Once the host is done it stays done: a step takes one turn off the schedule. -/
theorem State.hostDone_tail {s : State} {e : Event} {rest : List Event} (h : s.hostDone)
    (hs : s.sched = e :: rest) : e.isHost = false ∧ ∀ x ∈ rest, x.isHost = false := by
  rw [State.hostDone, hs] at h
  exact List.forall_mem_cons.mp h

/-- An idle engine's turn changes nothing, whether or not reset is asserted (R160, R220). -/
theorem engineTurn_idle {s : State} (hu : s.upc = upcIdle) : engineTurn s = .next s := by
  unfold engineTurn
  split
  · rfl
  · rw [hu]
    rfl

/-- The invariant does not speak of the turns still to come. -/
theorem State.Inv.withSched {s : State} (h : s.Inv) (l : List Event) :
    State.Inv { s with sched := l } := by
  cases h
  constructor <;> assumption

end Sys2Proof.Machine
end

