-- ==== Sys2Proof/Laws/PerInstr.lean ====
section
/-! SUPPORT. One statement per instruction: its encoding matches its row of spec/opcode_table.json
(format, match and mask; 30_encoding.md R72 to R75). -/

namespace Sys2Proof.Laws.TableRow

open Sys2Proof.Machine

/-- Format U: a code in `upc`. -/
def IsMicro (code : BitVec 5) (e : Encoding) : Prop := e = .micro code

/-- Format CMD: data that matches `pattern` under `mask`. -/
def IsCommand (mask pattern : Word32) (e : Encoding) : Prop :=
  ∃ d, e = .command d ∧ d &&& mask = pattern

/-- Format BUS, a read whose address matches `base` under `mask`. -/
def IsRead (mask base : Word32) (e : Encoding) : Prop :=
  ∃ a n, e = .bus (.read a n) ∧ a &&& mask = base

/-- Format BUS, a 4-byte write at `base`. -/
def IsWrite (base : Word32) (e : Encoding) : Prop := ∃ d, e = .bus (.write base .four d)

/-- The bytes of an access lie in the MSG window. -/
def InMsg (a : Word32) (n : Size) : Prop :=
  0x1000 ≤ a.toNat ∧ a.toNat + bytesOf n ≤ 0x1000 + Config.msgCap

/-- The row of each instruction in spec/opcode_table.json, as a property of its encoding. -/
def Matches : Instr → Encoding → Prop
  | .idle => IsMicro 0x00
  | .pad => IsMicro 0x01
  | .init => IsMicro 0x02
  | .mix => IsMicro 0x03
  | .capt => IsMicro 0x04
  | .alpha => IsMicro 0x05
  | .delta => IsMicro 0x06
  | .theta => IsMicro 0x07
  | .gamma => IsMicro 0x08
  | .prime => IsMicro 0x09
  | .shuf => IsMicro 0x0A
  | .add => IsMicro 0x0B
  | .finish => IsMicro 0x0C
  | .setie _ => IsCommand 0x00000003 0x00000000
  | .start _ => IsCommand 0x00000003 0x00000001
  | .clear _ => IsCommand 0x00000002 0x00000002
  | .rdId _ _ => IsRead 0xFFFFFFFC 0x00000000
  | .rdCtrl _ _ => IsRead 0xFFFFFFFC 0x00000004
  | .wrCtrl _ => IsWrite 0x00000004
  | .rdStatus _ _ => IsRead 0xFFFFFFFC 0x00000008
  | .wrStatus _ => IsWrite 0x00000008
  | .rdCause _ _ => IsRead 0xFFFFFFFC 0x0000000C
  | .rdLen _ _ => IsRead 0xFFFFFFFC 0x00000010
  | .wrLen _ => IsWrite 0x00000010
  | .rdCap _ _ => IsRead 0xFFFFFFFC 0x00000014
  | .rdOut01 _ _ => IsRead 0xFFFFFFFC 0x00000018
  | .rdOut23 _ _ => IsRead 0xFFFFFFFC 0x0000001C
  | .rdD60 _ _ => IsRead 0xFFFFFFC0 0x00000100
  | .rdD20 _ _ => IsRead 0xFFFFFFC0 0x00000140
  | .rdD16 _ _ => IsRead 0xFFFFFFC0 0x00000180
  | .rdD14 _ _ => IsRead 0xFFFFFFC0 0x000001C0
  | .rdD12 _ _ => IsRead 0xFFFFFFC0 0x00000200
  | .rdD8 _ _ => IsRead 0xFFFFFFC0 0x00000240
  | .rdD6 _ _ => IsRead 0xFFFFFFC0 0x00000280
  | .rdD2 _ _ => IsRead 0xFFFFFFC0 0x000002C0
  | .rdMsg a n => fun e => e = .bus (.read a n) ∧ InMsg a n
  | .wrMsg a n d => fun e => e = .bus (.write a n d) ∧ InMsg a n
  | .busErr t => fun e => e = .bus t ∧ legal t = false

/-- A well-formed instruction's encoding matches its row. -/
def Statement (i : Instr) : Prop := WellFormed i → Matches i (encode i)

theorem mask_register : ∀ off : BitVec 2, ∀ k : Fin 8,
    BitVec.ofNat 32 (4 * k.val + off.toNat) &&& (0xFFFFFFFC : Word32) = BitVec.ofNat 32 (4 * k.val) := by
  decide

theorem mask_digest : ∀ off : BitVec 6, ∀ k : Fin 8,
    BitVec.ofNat 32 (0x100 + 0x40 * k.val + off.toNat) &&& (0xFFFFFFC0 : Word32) =
      BitVec.ofNat 32 (0x100 + 0x40 * k.val) := by
  decide +kernel

theorem inMsg {a : Word32} {n : Size} (h : (aligned a.toNat n && inMsgWindow a.toNat n) = true) :
    InMsg a n := by
  simp [inMsgWindow, msgBase] at h
  exact ⟨h.2.1, by omega⟩

theorem command_bits : ∀ d : BitVec 2,
    ((d[1] = false ∧ d[0] = false) → d &&& 3 = 0) ∧ ((d[1] = false ∧ d[0] = true) → d &&& 3 = 1) ∧
    (d[1] = true → d &&& 2 = 2) := by
  decide

theorem command_mask (d : Word32) (m : BitVec 2) :
    d &&& m.setWidth 32 = (d.setWidth 2 &&& m).setWidth 32 := by
  apply BitVec.eq_of_getLsbD_eq
  intro i hi
  by_cases h : i < 2
  · simp [hi, h]
  · simp [hi, h, m.getLsbD_of_ge i (by omega)]

theorem idle : Statement .idle := fun _ => rfl
theorem pad : Statement .pad := fun _ => rfl
theorem init : Statement .init := fun _ => rfl
theorem mix : Statement .mix := fun _ => rfl
theorem capt : Statement .capt := fun _ => rfl
theorem alpha : Statement .alpha := fun _ => rfl
theorem delta : Statement .delta := fun _ => rfl
theorem theta : Statement .theta := fun _ => rfl
theorem gamma : Statement .gamma := fun _ => rfl
theorem prime : Statement .prime := fun _ => rfl
theorem shuf : Statement .shuf := fun _ => rfl
theorem add : Statement .add := fun _ => rfl
theorem finish : Statement .finish := fun _ => rfl

theorem setie (d : Word32) : Statement (.setie d) := fun h => by
  simp [WellFormed, Instr.wf] at h
  refine ⟨d, rfl, ?_⟩
  rw [show (0x00000003 : Word32) = (3 : BitVec 2).setWidth 32 from rfl, command_mask,
    (command_bits _).1 (by simpa using h)]
  rfl

theorem start (d : Word32) : Statement (.start d) := fun h => by
  simp [WellFormed, Instr.wf] at h
  refine ⟨d, rfl, ?_⟩
  rw [show (0x00000003 : Word32) = (3 : BitVec 2).setWidth 32 from rfl, command_mask,
    (command_bits _).2.1 (by simpa using h)]
  rfl

theorem clear (d : Word32) : Statement (.clear d) := fun h => by
  simp [WellFormed, Instr.wf] at h
  refine ⟨d, rfl, ?_⟩
  rw [show (0x00000002 : Word32) = (2 : BitVec 2).setWidth 32 from rfl, command_mask,
    (command_bits _).2.2 (by simpa using h)]

theorem rdId (off : BitVec 2) (n : Size) : Statement (.rdId off n) :=
  fun _ => ⟨_, n, rfl, mask_register off 0⟩
theorem rdCtrl (off : BitVec 2) (n : Size) : Statement (.rdCtrl off n) :=
  fun _ => ⟨_, n, rfl, mask_register off 1⟩
theorem wrCtrl (d : Word32) : Statement (.wrCtrl d) := fun _ => ⟨d, rfl⟩
theorem rdStatus (off : BitVec 2) (n : Size) : Statement (.rdStatus off n) :=
  fun _ => ⟨_, n, rfl, mask_register off 2⟩
theorem wrStatus (d : Word32) : Statement (.wrStatus d) := fun _ => ⟨d, rfl⟩
theorem rdCause (off : BitVec 2) (n : Size) : Statement (.rdCause off n) :=
  fun _ => ⟨_, n, rfl, mask_register off 3⟩
theorem rdLen (off : BitVec 2) (n : Size) : Statement (.rdLen off n) :=
  fun _ => ⟨_, n, rfl, mask_register off 4⟩
theorem wrLen (d : Word32) : Statement (.wrLen d) := fun _ => ⟨d, rfl⟩
theorem rdCap (off : BitVec 2) (n : Size) : Statement (.rdCap off n) :=
  fun _ => ⟨_, n, rfl, mask_register off 5⟩
theorem rdOut01 (off : BitVec 2) (n : Size) : Statement (.rdOut01 off n) :=
  fun _ => ⟨_, n, rfl, mask_register off 6⟩
theorem rdOut23 (off : BitVec 2) (n : Size) : Statement (.rdOut23 off n) :=
  fun _ => ⟨_, n, rfl, mask_register off 7⟩
theorem rdD60 (off : BitVec 6) (n : Size) : Statement (.rdD60 off n) :=
  fun _ => ⟨_, n, rfl, mask_digest off 0⟩
theorem rdD20 (off : BitVec 6) (n : Size) : Statement (.rdD20 off n) :=
  fun _ => ⟨_, n, rfl, mask_digest off 1⟩
theorem rdD16 (off : BitVec 6) (n : Size) : Statement (.rdD16 off n) :=
  fun _ => ⟨_, n, rfl, mask_digest off 2⟩
theorem rdD14 (off : BitVec 6) (n : Size) : Statement (.rdD14 off n) :=
  fun _ => ⟨_, n, rfl, mask_digest off 3⟩
theorem rdD12 (off : BitVec 6) (n : Size) : Statement (.rdD12 off n) :=
  fun _ => ⟨_, n, rfl, mask_digest off 4⟩
theorem rdD8 (off : BitVec 6) (n : Size) : Statement (.rdD8 off n) :=
  fun _ => ⟨_, n, rfl, mask_digest off 5⟩
theorem rdD6 (off : BitVec 6) (n : Size) : Statement (.rdD6 off n) :=
  fun _ => ⟨_, n, rfl, mask_digest off 6⟩
theorem rdD2 (off : BitVec 6) (n : Size) : Statement (.rdD2 off n) :=
  fun _ => ⟨_, n, rfl, mask_digest off 7⟩
theorem rdMsg (a : Word32) (n : Size) : Statement (.rdMsg a n) := fun h => ⟨rfl, inMsg h⟩
theorem wrMsg (a : Word32) (n : Size) (d : Word32) : Statement (.wrMsg a n d) :=
  fun h => ⟨rfl, inMsg h⟩
theorem busErr (t : Transaction) : Statement (.busErr t) := fun h => ⟨rfl, by simpa [WellFormed, Instr.wf] using h⟩

end Sys2Proof.Laws.TableRow
end

