-- ==== Sys2Proof/Tests/Slice0.lean ====
section
/-! SUPPORT. Smoke tests of WellFormed; decode tests, every word written out from the spec's tables;
small tests of the meanings, expected values from spec/95_test_vectors.md or the rule's own example;
and for each statement with hypotheses a witness that meets them. -/

namespace Sys2Proof.Tests

open Sys2Proof.Machine

/-- What `f` sees in the next state, none where there is none. -/
def look {α : Type} (f : State → α) : Host.Outcome State Fault Refusal → Option α
  | .next t => some (f t)
  | _ => none

/-! ## WellFormed refuses -/

/-- A command whose data carries another pattern (R74). -/
theorem test_wf_command :
    (Instr.setie 0b001).wf = false ∧ (Instr.setie 0b010).wf = false ∧
    (Instr.start 0b000).wf = false ∧ (Instr.start 0b011).wf = false ∧
    (Instr.clear 0b101).wf = false := by decide

/-- A misaligned register read (R57). -/
theorem test_wf_register_alignment :
    (Instr.rdId 1 .two).wf = false ∧ (Instr.rdCtrl 2 .four).wf = false ∧
    (Instr.rdStatus 3 .two).wf = false ∧ (Instr.rdCause 1 .four).wf = false ∧
    (Instr.rdLen 3 .four).wf = false ∧ (Instr.rdCap 1 .two).wf = false ∧
    (Instr.rdOut01 2 .four).wf = false ∧ (Instr.rdOut23 3 .two).wf = false := by decide

/-- A misaligned digest read (R57). -/
theorem test_wf_digest_alignment :
    (Instr.rdD60 1 .two).wf = false ∧ (Instr.rdD20 62 .four).wf = false ∧
    (Instr.rdD16 5 .four).wf = false ∧ (Instr.rdD14 7 .two).wf = false ∧
    (Instr.rdD12 9 .two).wf = false ∧ (Instr.rdD8 10 .four).wf = false ∧
    (Instr.rdD6 63 .two).wf = false ∧ (Instr.rdD2 33 .four).wf = false := by decide

/-- A misaligned MSG access, and one below the window (R106). -/
theorem test_wf_msg :
    (Instr.rdMsg 0x1001 .two).wf = false ∧ (Instr.wrMsg 0x1002 .four 0).wf = false ∧
    (Instr.rdMsg 0x0FFF .one).wf = false ∧ (Instr.wrMsg 0x0FFC .four 0).wf = false := by decide

/-- An MSG access past the window (R106): no capacity reaches so far. -/
theorem test_wf_msg_past (h : Config.msgCap < 0xFFFFF000) :
    (Instr.rdMsg 0xFFFFFFFF .one).wf = false ∧ (Instr.wrMsg 0xFFFFFFFF .one 0).wf = false := by
  simp [Instr.wf, inMsgWindow, bytesOf, msgBase]
  omega

/-- A legal transaction is no BUS_ERR (R78). -/
theorem test_wf_busErr :
    (Instr.busErr (.read 0x000 .four)).wf = false ∧
    (Instr.busErr (.write 0x004 .four 0)).wf = false := by decide

/-! ## Decoding, words written out from the tables -/

/-- Format U, the 13 codes of R72. -/
theorem test_decode_micro :
    decode (.micro 0b00000) = .ok .idle ∧ decode (.micro 0b00001) = .ok .pad ∧
    decode (.micro 0b00010) = .ok .init ∧ decode (.micro 0b00011) = .ok .mix ∧
    decode (.micro 0b00100) = .ok .capt ∧ decode (.micro 0b00101) = .ok .alpha ∧
    decode (.micro 0b00110) = .ok .delta ∧ decode (.micro 0b00111) = .ok .theta ∧
    decode (.micro 0b01000) = .ok .gamma ∧ decode (.micro 0b01001) = .ok .prime ∧
    decode (.micro 0b01010) = .ok .shuf ∧ decode (.micro 0b01011) = .ok .add ∧
    decode (.micro 0b01100) = .ok .finish ∧
    decode (.micro 0b01101) = .error (.reservedMicroOp 0b01101) ∧
    decode (.micro 0b11111) = .error (.reservedMicroOp 0b11111) := by decide

/-- Format CMD (R73, R74): reserved bits are ignored, CLEAR wins over START. -/
theorem test_decode_command :
    decode (.command 0b100) = .ok (.setie 0b100) ∧
    decode (.command 0xFFFFFFF8) = .ok (.setie 0xFFFFFFF8) ∧
    decode (.command 0b101) = .ok (.start 0b101) ∧
    decode (.command 0b010) = .ok (.clear 0b010) ∧
    decode (.command 0b111) = .ok (.clear 0b111) := by decide

/-- Format BUS, the register reads of R75 at the first and the last byte. -/
theorem test_decode_register_reads :
    decode (.bus (.read 0x000 .four)) = .ok (.rdId 0 .four) ∧
    decode (.bus (.read 0x003 .one)) = .ok (.rdId 3 .one) ∧
    decode (.bus (.read 0x004 .four)) = .ok (.rdCtrl 0 .four) ∧
    decode (.bus (.read 0x009 .one)) = .ok (.rdStatus 1 .one) ∧
    decode (.bus (.read 0x00E .two)) = .ok (.rdCause 2 .two) ∧
    decode (.bus (.read 0x010 .four)) = .ok (.rdLen 0 .four) ∧
    decode (.bus (.read 0x014 .two)) = .ok (.rdCap 0 .two) ∧
    decode (.bus (.read 0x01A .two)) = .ok (.rdOut01 2 .two) ∧
    decode (.bus (.read 0x01F .one)) = .ok (.rdOut23 3 .one) := by decide

/-- Format BUS, the digest windows of R75 at the first and the last byte. -/
theorem test_decode_digest_reads :
    decode (.bus (.read 0x100 .four)) = .ok (.rdD60 0 .four) ∧
    decode (.bus (.read 0x13F .one)) = .ok (.rdD60 63 .one) ∧
    decode (.bus (.read 0x140 .four)) = .ok (.rdD20 0 .four) ∧
    decode (.bus (.read 0x18C .four)) = .ok (.rdD16 12 .four) ∧
    decode (.bus (.read 0x1C0 .two)) = .ok (.rdD14 0 .two) ∧
    decode (.bus (.read 0x202 .two)) = .ok (.rdD12 2 .two) ∧
    decode (.bus (.read 0x240 .one)) = .ok (.rdD8 0 .one) ∧
    decode (.bus (.read 0x280 .four)) = .ok (.rdD6 0 .four) ∧
    decode (.bus (.read 0x2FC .four)) = .ok (.rdD2 60 .four) := by decide

/-- Format BUS, the writes of R75. -/
theorem test_decode_writes :
    decode (.bus (.write 0x004 .four 0x5)) = .ok (.wrCtrl 0x5) ∧
    decode (.bus (.write 0x008 .four 0x2)) = .ok (.wrStatus 0x2) ∧
    decode (.bus (.write 0x010 .four 0x41)) = .ok (.wrLen 0x41) := by decide

/-- Format BUS, the first byte of MSG, which every capacity has (R75, R13). -/
theorem test_decode_msg :
    decode (.bus (.read 0x1000 .one)) = .ok (.rdMsg 0x1000 .one) ∧
    decode (.bus (.write 0x1000 .one 0x61)) = .ok (.wrMsg 0x1000 .one 0x61) := ⟨rfl, rfl⟩

/-- Format BUS, the bus errors of spec/95_test_vectors.md section 2.11 but the one past MSG. -/
theorem test_decode_bus_errors :
    ∀ t ∈ [Transaction.read 0x002 .four, .read 0x1001 .two, .write 0x1002 .four 0, .read 0x020 .four,
      .read 0x300 .four, .write 0x000 .four 0, .write 0x018 .four 0, .write 0x180 .one 0x41,
      .write 0x004 .one 0x1, .write 0x010 .two 0x3],
      decode (.bus t) = .ok (.busErr t) := by decide

/-- `R8 0x1000+MSG_CAP` (section 2.11): the first byte past MSG. -/
theorem test_decode_past_msg (h : Config.msgCap < 0xFFFFF000) :
    decode (.bus (.read (BitVec.ofNat 32 (0x1000 + Config.msgCap)) .one)) =
      .ok (.busErr (.read (BitVec.ofNat 32 (0x1000 + Config.msgCap)) .one)) := by
  have e : (BitVec.ofNat 32 (0x1000 + Config.msgCap)).toNat = 0x1000 + Config.msgCap := by
    simp
    omega
  simp only [decode, decodeBus, e, itemOf_msg (Nat.le_add_right _ _), bytesOf]
  simp

/-- The numbers of spec/opcode_table.json, where one number tells the row. -/
theorem test_table_words :
    decodeTableWord 8 0x00 = some .idle ∧ decodeTableWord 8 0x0C = some .finish ∧
    decodeTableWord 8 0x0D = none ∧ decodeTableWord 32 0x1 = some (.start 1) ∧
    decodeTableWord 32 0x2 = some (.clear 2) ∧ decodeTableWord 32 0x10 = some (.rdLen 0 .one) ∧
    decodeTableWord 32 0x2C0 = some (.rdD2 0 .one) := by decide

theorem test_table_word_msg : decodeTableWord 32 0x1000 = some (.rdMsg 0x1000 .one) := rfl

/-! ## Micro-ops -/

/-- MSG with the bytes "abc" (spec/95_test_vectors.md V-PAD-2). -/
def abc : Memory := ⟨0, [(0, 0x61), (1, 0x62), (2, 0x63)]⟩

/-- The hash of "abc" right after START (V-START-1). -/
def abcState : State :=
  { State.reset with msg := abc, len := 3, n := 3, nt := 61, busy := true, upc := 0x01 }

/-- IDLE (R160): nothing changes. -/
theorem test_idle : look id (exec .idle State.reset) = some State.reset := rfl

/-- PAD, V-PAD-2, row t = 4: n = 132, byte 61, w = E5, then n = 361. -/
theorem test_pad :
    look (fun t => (t.tail[4], t.n, t.t, t.upc)) (exec .pad { abcState with t := 4, n := 132 }) =
      some (0xE5, 361, 5, 0x01) := by decide

/-- PAD, V-PAD-6: the one tail word of 127 bytes 01, and then INIT. -/
theorem test_pad_last :
    look (fun t => (t.tail[0], t.n, t.t, t.upc))
      (exec .pad { abcState with msg := ⟨0, [(0, 0x01)]⟩, len := 127, n := 127, nt := 1 }) =
      some (0x7E, 253, 1, 0x02) := by decide

/-- INIT, V-INIT-1: LEN = 65, NT = 63 gives two blocks. -/
theorem test_init :
    look (fun t => (t.nb, t.blk, t.ch, t.po, t.r, t.upc))
      (exec .init { State.reset with len := 65, nt := 63, blk := 7, ch := 1, po := 2, r := 3 }) =
      some (2, 0, 0, 0, 0, 0x03) := by decide

/-- MIX's portion, V-MIX-1: (61, 62, 63, 62) at the start of "abc". -/
theorem test_mix_portion :
    State.portion { abcState with tail := abcState.tail.set 0 0x62 } =
      #v[0x61, 0x62, 0x63, 0x62] := by decide

/-- MIX's place, V-MIX-4: word 108 at blk = 1, ch = 2, po = 3; and its successor CAPT. -/
theorem test_mix :
    State.portionBase { State.reset with blk := 1, ch := 2, po := 3 } = 108 ∧
    look (·.upc) (exec .mix State.reset) = some 0x04 := by decide

/-- CAPT, V-CAPT-1. -/
theorem test_capt :
    look (fun t => (t.pre, t.upc)) (exec .capt { State.reset with acc := #v[1, 2, 3, 4] }) =
      some (#v[1, 2, 3, 4], 0x05) := by decide

/-- Stage 1, V-STG-1: the successors, and q set to 0 by GAMMA. -/
theorem test_stage1 :
    look (·.upc) (exec .alpha State.reset) = some 0x06 ∧
    look (·.upc) (exec .delta State.reset) = some 0x07 ∧
    look (·.upc) (exec .theta State.reset) = some 0x08 ∧
    look (fun t => (t.q, t.upc)) (exec .gamma { State.reset with q := 5 }) = some (0, 0x09) := by
  decide

/-- PRIME's reduction, V-PRIME-1 and V-PRIME-3. -/
theorem test_prime_reduction :
    reduceFactor #v[0, 6, 7, 0xFFFF] 7 = #v[0, 6, 0, 1] ∧
    reduceFactor #v[65520, 65521, 65535, 0] 65521 = #v[65520, 0, 14, 0] := by decide

/-- PRIME's sequencing, V-PRIME-4. -/
theorem test_prime_sequence :
    look (fun t => (t.q, t.upc)) (exec .prime { State.reset with q := 88 }) = some (89, 0x09) ∧
    look (fun t => (t.q, t.upc)) (exec .prime { State.reset with q := 89 }) = some (0, 0x0A) := by
  decide

/-- SHUF's swaps under the orders of V-SHUF-1 and V-SHUF-2 (conditional vectors). -/
theorem test_shuf_orders :
    [(0, 1), (0, 2), (0, 3), (1, 2), (1, 3), (2, 3)].foldl swapWords #v[1, 2, 3, 4] =
      #v[4, 3, 2, 1] ∧
    [(0, 1), (2, 3), (0, 2), (1, 3), (0, 3), (1, 2)].foldl swapWords #v[1, 2, 3, 4] =
      #v[1, 2, 3, 4] := by decide

/-- SHUF's successor is ADD (R146). -/
theorem test_shuf : look (·.upc) (exec .shuf State.reset) = some 0x0B := rfl

/-- ADD, V-ADD-1: wraparound, not saturation. -/
theorem test_add :
    look (·.acc) (exec .add
      { State.reset with pre := #v[0xFFFF, 1, 0x8000, 0], acc := #v[1, 2, 0x8000, 0] }) =
      some #v[0, 3, 0, 0] := by decide

/-- ADVANCE, three rows of V-ADV-1. -/
theorem test_advance :
    look (fun t => (t.blk, t.ch, t.po, t.r, t.upc))
      (exec .add { State.reset with po := 3, r := 30, nb := 1 }) = some (0, 1, 0, 0, 0x03) ∧
    look (fun t => (t.blk, t.ch, t.po, t.r, t.upc))
      (exec .add { State.reset with ch := 3, po := 3, r := 30, nb := 2 }) =
      some (1, 0, 0, 0, 0x03) ∧
    look (fun t => (t.blk, t.ch, t.po, t.r, t.upc))
      (exec .add { State.reset with blk := 1, ch := 3, po := 3, r := 30, nb := 2 }) =
      some (1, 0, 0, 0, 0x0C) := ⟨rfl, rfl, rfl⟩

/-- FINISH, V-VIEW-1. -/
theorem test_finish :
    look (fun t => (t.out, t.busy, t.done, t.upc)) (exec .finish
      { State.reset with acc := #v[0x1234, 0xABCD, 0x0001, 0xFFFF], busy := true, upc := 0x0C }) =
      some (#v[0x1234, 0xABCD, 0x0001, 0xFFFF], false, true, 0x00) := by decide

/-! ## Commands and writes -/

/-- SETIE while busy, V-HOST-2: IE set, WERR not. -/
theorem test_setie :
    look (fun t => (t.ie, t.werr, t.busy)) (exec (.setie 0x4) abcState) =
      some (true, false, true) := by decide

/-- START, V-START-1. -/
theorem test_start (h : 3 ≤ Config.msgCap) :
    look (fun t => (t.busy, t.n, t.t, t.nt, t.upc)) (exec (.start 0x1)
      { State.reset with len := 3, msg := abc }) = some (true, 3, 0, 61, 0x01) := by
  have h' : ¬Config.msgCap < 3 := by omega
  simp [exec, execStart, State.startCommand, State.reset, State.setIe, look, h', State.beginHash,
    State.clearOutcome, State.answer]
  decide

/-- START with LEN = 0, V-START-3, and program P2's line 1: the interrupt rises. -/
theorem test_start_empty :
    look (fun t => (t.err, t.cause, t.busy, t.upc, t.irq)) (exec (.start 0x5) State.reset) =
      some (true, 1, false, 0x00, true) := by decide

/-- CLEAR while busy (R102's example). -/
theorem test_clear :
    look (fun t => (t.statusWord, t.out, t.upc, t.len)) (exec (.clear 0x2)
      { abcState with out := #v[1, 2, 3, 4] }) = some (0, #v[0, 0, 0, 0], 0x00, 3) := by decide

/-- A CTRL write with START and CLEAR together, V-HOST-1: CLEAR only. -/
theorem test_wrCtrl :
    look (fun t => (t.busy, t.upc, t.err)) (exec (.wrCtrl 0x3) abcState) =
      some (false, 0x00, false) := by decide

/-- A CTRL write that selects START is dropped while busy, and IE is still written (R103). -/
theorem test_wrCtrl_busy :
    look (fun t => (t.ie, t.werr, t.busy, t.n)) (exec (.wrCtrl 0x5) abcState) =
      some (true, true, true, 3) := by decide

/-- STATUS writes, V-HOST-4 and V-HOST-5. -/
theorem test_wrStatus :
    look (fun t => (t.statusWord, t.cause)) (exec (.wrStatus 0x4)
      { State.reset with err := true, ie := true, cause := 1 }) = some (0x00, 0) ∧
    look (·.statusWord) (exec (.wrStatus 0x11) { abcState with ie := true, werr := true }) =
      some 0x09 := by decide

/-- A STATUS write clears DONE and the interrupt falls, V-HOST-3. -/
theorem test_wrStatus_done :
    State.statusWord { State.reset with done := true, ie := true } = 0x12 ∧
    look (·.statusWord) (exec (.wrStatus 0x2) { State.reset with done := true, ie := true }) =
      some 0x00 := by decide

/-- LEN writes: stored when idle (R105's example), dropped while busy (V-HOST-6). -/
theorem test_wrLen :
    look (fun t => (t.len, t.werr)) (exec (.wrLen 0x3) State.reset) = some (3, false) ∧
    look (fun t => (t.len, t.werr)) (exec (.wrLen 0x41) abcState) = some (3, true) := by decide

/-- MSG write and reads, V-HOST-9. -/
theorem test_wrMsg (h : 4 ≤ Config.msgCap) :
    look (fun t => (t.msg.read 0, t.msg.read 1, t.msg.read 2, t.msg.read 3))
      (exec (.wrMsg 0x1000 .four 0x64636261) State.reset) = some (0x61, 0x62, 0x63, 0x64) := by
  have hw : inMsgWindow 4096 .four = true := by simp [inMsgWindow, bytesOf, h]
  have e : exec (.wrMsg 0x1000 .four 0x64636261) State.reset =
      .next { State.reset with
        msg := State.reset.msg.writeBytes 0 0x64636261 .four, resp := some .writeDone } := by
    simp [exec, execWrMsg, hw, aligned, bytesOf, State.msgWrite, State.reset, State.answer]
  have hm : State.reset.msg.wf := Memory.wf_nil 0
  rw [e]
  simp only [look, Memory.read_writeBytes hm]
  rfl

/-- An MSG write while busy is dropped (program P3, line 4). -/
theorem test_wrMsg_busy :
    look (fun t => (t.msg, t.werr)) (exec (.wrMsg 0x1000 .one 0x62) abcState) =
      some (abc, true) := rfl

/-! ## Reads -/

/-- ID, V-HOST-7. -/
theorem test_rdId :
    look (·.resp) (exec (.rdId 0 .four) State.reset) = some (some (.readData 0x48584F50)) ∧
    look (·.resp) (exec (.rdId 3 .one) State.reset) = some (some (.readData 0x48)) ∧
    look (·.resp) (exec (.rdId 2 .two) State.reset) = some (some (.readData 0x4858)) := by decide

/-- CTRL (R109's example) and STATUS (program P2, line 2). -/
theorem test_rdCtrl_rdStatus :
    look (·.resp) (exec (.rdCtrl 0 .four) { State.reset with ie := true }) =
      some (some (.readData 0x4)) ∧
    look (·.resp) (exec (.rdStatus 0 .four) { State.reset with ie := true, err := true }) =
      some (some (.readData 0x14)) ∧
    look (·.resp) (exec (.rdStatus 0 .one) { State.reset with werr := true, busy := true }) =
      some (some (.readData 0x9)) := by decide

/-- CAUSE (R111's example) and LEN (R112's example). -/
theorem test_rdCause_rdLen :
    look (·.resp) (exec (.rdCause 0 .four) { State.reset with cause := 1, err := true }) =
      some (some (.readData 0x1)) ∧
    look (·.resp) (exec (.rdLen 0 .four) { State.reset with len := 0x41 }) =
      some (some (.readData 0x41)) := by decide

/-- CAP, V-HOST-8. -/
theorem test_rdCap (h : Config.msgCap = 4096) :
    look (·.resp) (exec (.rdCap 0 .four) State.reset) = some (some (.readData 0x1000)) := by
  simp [exec, execRdCap, readRegister, capWord, h, look, State.answer, aligned, bytesOf]
  decide

/-- The result of V-VIEW-1. -/
def viewState : State := { State.reset with out := #v[0x1234, 0xABCD, 0x0001, 0xFFFF] }

/-- OUT01 and OUT23, V-VIEW-1. -/
theorem test_rdOut :
    look (·.resp) (exec (.rdOut01 0 .four) viewState) = some (some (.readData 0xABCD1234)) ∧
    look (·.resp) (exec (.rdOut01 1 .one) viewState) = some (some (.readData 0x12)) ∧
    look (·.resp) (exec (.rdOut23 0 .four) viewState) = some (some (.readData 0xFFFF0001)) ∧
    look (·.resp) (exec (.rdOut23 2 .two) viewState) = some (some (.readData 0xFFFF)) := by decide

/-- The views of V-VIEW-1. -/
theorem test_views :
    bytesView viewState.out = [0x34, 0x12, 0xCD, 0xAB, 0x01, 0x00, 0xFF, 0xFF] ∧
    doublesView viewState.out = [0xABCD1234, 0xFFFF0001] ∧
    quadView viewState.out = 0xFFFF0001ABCD1234 := by decide

/-- The base-16 window, V-VIEW-1: the first word, the last, and a byte past the string. -/
theorem test_rdD16 :
    look (·.resp) (exec (.rdD16 0 .four) viewState) = some (some (.readData 0x34333231)) ∧
    look (·.resp) (exec (.rdD16 0xC .four) viewState) = some (some (.readData 0x46464646)) ∧
    look (·.resp) (exec (.rdD16 0x10 .one) viewState) = some (some (.readData 0x00)) := by decide

/-- Each window past its string reads 0, whatever the alphabets are (R29); base 2 fills its window. -/
theorem test_digest_past_string (s : State) :
    look (·.resp) (exec (.rdD60 12 .four) s) = some (some (.readData 0)) ∧
    look (·.resp) (exec (.rdD20 16 .four) s) = some (some (.readData 0)) ∧
    look (·.resp) (exec (.rdD14 20 .four) s) = some (some (.readData 0)) ∧
    look (·.resp) (exec (.rdD12 20 .four) s) = some (some (.readData 0)) ∧
    look (·.resp) (exec (.rdD8 24 .four) s) = some (some (.readData 0)) ∧
    look (·.resp) (exec (.rdD6 28 .four) s) = some (some (.readData 0)) ∧
    (digestString .b2 s.out).length = 64 := by
  simp only [exec, execRdD60, execRdD20, execRdD14, execRdD12, execRdD8, execRdD6, readDigest, look]
  refine ⟨?_, ?_, ?_, ?_, ?_, ?_, digestString_length _ _⟩ <;>
    rw [selectDigest_past _ _ _ (by decide)] <;> rfl

/-- Digits, two columns of the table in section 2.9. -/
theorem test_digits :
    digits .b60 0x1234 = [1, 17, 40] ∧ digits .b60 0xABCD = [12, 13, 1] ∧
    digits .b20 0x1234 = [0, 11, 13, 0] ∧ digits .b20 0xABCD = [5, 9, 19, 1] ∧
    digits .b16 0x1234 = [1, 2, 3, 4] ∧ digits .b16 0xABCD = [10, 11, 12, 13] ∧
    digits .b14 0x1234 = [0, 1, 9, 10, 12] ∧ digits .b14 0xABCD = [1, 2, 0, 5, 7] ∧
    digits .b12 0x1234 = [0, 2, 8, 4, 4] ∧ digits .b12 0xABCD = [2, 1, 5, 5, 1] ∧
    digits .b8 0x1234 = [0, 1, 1, 0, 6, 4] ∧ digits .b8 0xABCD = [1, 2, 5, 7, 1, 5] ∧
    digits .b6 0x1234 = [0, 0, 3, 3, 3, 2, 4] ∧ digits .b6 0xABCD = [0, 5, 3, 5, 3, 4, 1] ∧
    digits .b2 0x1234 = [0, 0, 0, 1, 0, 0, 1, 0, 0, 0, 1, 1, 0, 1, 0, 0] := by decide

/-- An MSG read returns the byte (R107). -/
theorem test_rdMsg :
    look (·.resp) (exec (.rdMsg 0x1000 .one) abcState) = some (some (.readData 0x61)) := rfl

/-- Bus errors (program P5): data 0 with the error, and nothing else changes. -/
theorem test_busErr :
    look id (exec (.busErr (.read 0x002 .four)) State.reset) =
      some { State.reset with resp := some (.readError 0) } ∧
    look id (exec (.busErr (.write 0x004 .one 0x1)) State.reset) =
      some { State.reset with resp := some .writeError } := ⟨rfl, rfl⟩

/-! ## Steps -/

/-- The padder of the reference: the tail of V-PAD-9 begins 01 02 04 08 10 20 40 80 00. -/
theorem test_padMessage :
    (padMessage [0x00]).take 10 = [0x00, 0x01, 0x02, 0x04, 0x08, 0x10, 0x20, 0x40, 0x80, 0x00] ∧
    (padMessage [0x00]).length = 64 := by decide

/-- The outline's rotations, amounts modulo 16 (R14): rotl16(0x8001, 17) = 0x0003. -/
theorem test_rotl : rotl16 0x8001 17 = 0x0003 ∧ rotr16 0x8001 17 = 0xC000 := by decide

/-- Target slots, V-MIX-1 at r = 1, and the final shift of V-MIX-5. -/
theorem test_mixer_outline :
    [0, 1, 2, 3].map (targetSlot #v[0x61, 0x62, 0x63, 0x62] 1) = [2, 3, 0, 3] ∧
    finalShift 0xE7 3 = 3 := by decide

/-- Reset memory has the canonical form. -/
theorem test_reset_memory : State.reset.msg.wf := Memory.wf_nil _

/-- A placed table word is the next to run: PAD, START, an MSG read. -/
theorem test_withFetchWord :
    look (·.upc) (step (State.reset.withFetchWord 8 0x04)) = some 0x05 ∧
    look (·.cause) (step (State.reset.withFetchWord 32 0x1)) = some 1 ∧
    look (·.resp) (step (State.reset.withFetchWord 32 0x10)) = some (some (.readData 0)) := by
  decide

/-- A turn of the host, then the engine when no turn is left. -/
theorem test_step :
    look (·.resp) (step { State.reset with sched := [.bus (.read 0x000 .one)] }) =
      some (some (.readData 0x50)) ∧
    look (·.t) (step abcState) = some 1 := by decide

/-! ## Witnesses: states and operands that meet the statements' hypotheses

Each theorem names its statement. Where a hypothesis speaks of MSG_CAP, which has no known value,
the witness is the value every capacity allows, or MSG_CAP itself. -/

/-- A hash of one byte, at its first PAD. -/
def padState : State := { State.reset with busy := true, len := 1, n := 1, nt := 63, upc := 0x01 }

/-- The same hash at MIX, after padding. -/
def mixState : State := { padState with t := 63, nb := 1, upc := 0x03 }

/-- The same hash at FINISH, with a result that differs from OUT. -/
def finishState : State := { mixState with acc := #v[1, 2, 3, 4], upc := 0x0C }

theorem padState_inv : padState.Inv := by
  have := Config.msgCap_bounds.1
  constructor <;> simp [padState, State.reset, inPortionLoop, upcIdle, upcPad, upcInit, upcPrime,
    tailCount, Memory.wf]
  exact this

theorem mixState_inv : mixState.Inv := by
  have := Config.msgCap_bounds.1
  constructor <;> simp [mixState, padState, State.reset, inPortionLoop, upcIdle, upcPad, upcInit,
    upcPrime, tailCount, Memory.wf]
  exact this

theorem finishState_inv : finishState.Inv := by
  have := Config.msgCap_bounds.1
  constructor <;> simp [finishState, mixState, padState, State.reset, inPortionLoop, upcIdle, upcPad,
    upcInit, upcPrime, tailCount, Memory.wf]
  exact this

/-- DecodeOfEncodeIsTheInstruction: one of each format, operands at their bounds. -/
theorem witness_wellFormed :
    WellFormed .finish ∧ WellFormed (.setie 0xFFFFFFFC) ∧ WellFormed (.rdOut23 3 .one) ∧
    WellFormed (.rdD2 60 .four) ∧ WellFormed (.wrLen 0xFFFFFFFF) ∧
    WellFormed (.rdMsg 0x1000 .one) ∧ WellFormed (.busErr (.read 0x020 .four)) := by
  refine ⟨by decide, by decide, by decide, by decide, by decide, ?_, by decide⟩
  have := Config.msgCap_bounds.1
  simp [WellFormed, Instr.wf, aligned, inMsgWindow, bytesOf]
  exact this

/-- EncodeOfDecodeIsTheEncoding: an encoding of each place decodes. -/
theorem witness_decodes :
    decode (.micro 0x0C) = .ok .finish ∧ decode (.command 0) = .ok (.setie 0) ∧
    decode (.bus (.read 0x2FF .one)) = .ok (.rdD2 63 .one) := by decide

/-- ReservedMicroOpsRefusedAndNeverWritten: the first reserved code with no turn left, the last one
with the engine's turn; and an instruction that runs with the largest code. -/
theorem witness_reserved :
    step { State.reset with upc := 0x0D } = .refused (.reservedMicroOp 0x0D) ∧
    step { State.reset with upc := 0x1F, sched := [.engine] } = .refused (.reservedMicroOp 0x1F) ∧
    look (·.upc) (exec .finish { State.reset with upc := 0x0C }) = some 0 := ⟨rfl, rfl, rfl⟩

/-- BusTransactionsDecodeByTheTable: aligned offsets at their bounds, and the first and the last
byte of MSG. -/
theorem witness_bus_operands :
    (3 : BitVec 2).toNat % bytesOf .one = 0 ∧ (2 : BitVec 2).toNat % bytesOf .two = 0 ∧
    (63 : BitVec 6).toNat % bytesOf .one = 0 ∧ (60 : BitVec 6).toNat % bytesOf .four = 0 ∧
    (0x1000 : Word32).toNat % bytesOf .one = 0 ∧
    (0x1000 : Word32).toNat + bytesOf .one ≤ 0x1000 + Config.msgCap ∧
    (BitVec.ofNat 32 (0x0FFF + Config.msgCap)).toNat % bytesOf .one = 0 ∧
    0x1000 ≤ (BitVec.ofNat 32 (0x0FFF + Config.msgCap)).toNat ∧
    (BitVec.ofNat 32 (0x0FFF + Config.msgCap)).toNat + bytesOf .one ≤ 0x1000 + Config.msgCap := by
  have := Config.msgCap_bounds
  simp [bytesOf, Nat.mod_one]
  omega

/-- EngineTurnRunsTheMicroOpInUpc, both clauses. -/
theorem witness_engine_turn :
    padState.rst = false ∧ decode (.micro padState.upc) = .ok .pad ∧ padState.sched = [] ∧
    ({ padState with sched := [.engine] } : State).sched = .engine :: [] := by decide

/-- HostTurnRunsTheDecodedTransaction, both clauses. -/
theorem witness_host_turn :
    State.reset.rst = false ∧
    ({ State.reset with sched := [.bus (.read 0x008 .four)] } : State).sched =
      .bus (.read 0x008 .four) :: [] ∧
    decode (.bus (.read 0x008 .four)) = .ok (.rdStatus 0 .four) ∧
    ({ State.reset with sched := [.command 0x1] } : State).sched = .command 0x1 :: [] ∧
    decode (.command 0x1) = .ok (.start 0x1) := by decide

/-- PlacedTableWordRunsNext. -/
theorem witness_placed :
    decodeTableWord 8 0x01 = some .pad ∧ decodeTableWord 32 0x3 = some (.clear 0x3) := by decide

/-- AssertedResetFreezesTheBlock, each clause. -/
theorem witness_asserted :
    let held (turns : List Event) : State := { padState with rst := true, sched := turns }
    (held []).rst = true ∧ (held []).sched = [] ∧ (held [.engine]).sched = .engine :: [] ∧
    (held [.bus (.read 0 .one)]).sched = .bus (.read 0 .one) :: [] ∧
    (held [.command 1]).sched = .command 1 :: [] := by decide

/-- ResetLeavesTheResetValues: a reset that arrives in a running hash. -/
theorem witness_reset_turns :
    ({ mixState with sched := [.rst true, .rst false, .engine] } : State).sched =
      .rst true :: .rst false :: [.engine] := rfl

/-- ClearDiffersFromResetInIeLenMsgOnly. -/
theorem witness_clear_data : (0x2 : Word32)[1] = true ∧ (0x7 : Word32)[1] = true := by decide

/-- StepKeepsTheInvariant, InvariantStatesGoOn, StepKeepsTheMemoryForm and RunsEndExactlyAtRest: a
running hash meets the invariant and steps on. -/
theorem witness_invariant :
    padState.Inv ∧ padState.goesOn ∧ padState.msg.wf ∧ padState.rst = false ∧ padState.busy = true :=
  ⟨padState_inv, ⟨_, rfl⟩, Memory.wf_nil 0, rfl, rfl⟩

/-- RunsEndExactlyAtRest: the state after reset has ended, and with turns left that are not the host's it
has ended too; a turn of the host left, or a running hash, has not. -/
theorem witness_ended :
    State.reset.ended ∧
    ({ State.reset with sched := [.engine] } : State).ended ∧
    (∀ e ∈ ({ State.reset with sched := [.engine] } : State).sched, e = .engine) ∧
    ({ State.reset with sched := [.rst true, .engine, .rst false] } : State).ended ∧
    ¬({ State.reset with sched := [.engine, .command 1] } : State).ended ∧ ¬padState.ended := by
  refine ⟨⟨?_, rfl, rfl⟩, ⟨?_, rfl, rfl⟩, ?_, ⟨?_, rfl, rfl⟩, fun h => ?_, fun h => ?_⟩
  · exact fun e h => nomatch h
  · simp [State.hostDone, Event.isHost]
  · simp
  · simp [State.hostDone, Event.isHost]
  · simpa [Event.isHost] using h.1 (.command 1) (by simp)
  · exact absurd h.2.2 (by decide)

/-- StartFollowsItsChecks, each clause: busy, empty, one past the largest capacity, the shortest
message. -/
theorem witness_start :
    padState.busy = true ∧ State.reset.busy = false ∧ State.reset.len.toNat = 0 ∧
    Config.msgCap < (0xFFFFF001 : Word32).toNat ∧
    1 ≤ (1 : Word32).toNat ∧ (1 : Word32).toNat ≤ Config.msgCap ∧
    (64 - (1 : Word32).toNat % 64) % 64 ≠ 0 := by
  have := Config.msgCap_bounds
  simp [padState, State.reset]
  omega

/-- StartFollowsItsChecks: a message of 64 bytes has no tail words. -/
theorem witness_start_no_tail : (64 - (64 : Word32).toNat % 64) % 64 = 0 := by decide

/-- CtrlWriteSelectsTheCommand, each clause. -/
theorem witness_ctrl_data :
    (0xFFFFFFFC : Word32).toNat % 4 = 0 ∧ (0x5 : Word32).toNat % 4 = 1 ∧
    2 ≤ (0x2 : Word32).toNat % 4 ∧ 2 ≤ (0x3 : Word32).toNat % 4 := by decide

/-- LenWriteStoresOrDrops, both clauses. -/
theorem witness_len_write : padState.busy = true ∧ State.reset.busy = false := ⟨rfl, rfl⟩

/-- MsgWriteStoresItsBytes and MsgReadSumsItsBytes: a misaligned address, the last below the
window, the first byte of MSG and its last. -/
theorem witness_msg_access :
    State.reset.msg.wf ∧ (0x1001 : Word32).toNat % bytesOf .two ≠ 0 ∧ (0x0FFF : Word32).toNat < 0x1000 ∧
    (0x1000 : Word32).toNat + bytesOf .one ≤ 0x1000 + Config.msgCap ∧
    0x1000 ≤ (BitVec.ofNat 32 (0x0FFF + Config.msgCap)).toNat ∧
    (BitVec.ofNat 32 (0x0FFF + Config.msgCap)).toNat + bytesOf .one ≤ 0x1000 + Config.msgCap ∧
    padState.busy = true ∧ State.reset.busy = false := by
  have := Config.msgCap_bounds
  refine ⟨Memory.wf_nil 0, by decide, by decide, ?_, ?_, ?_, rfl, rfl⟩ <;> simp [bytesOf] <;> omega

/-- The same statements: the first byte past MSG, where the bus has one. -/
theorem witness_msg_past (h : Config.msgCap < 0xFFFFF000) :
    0x1000 + Config.msgCap < (BitVec.ofNat 32 (0x1000 + Config.msgCap)).toNat + bytesOf .one := by
  simp [bytesOf]
  omega

/-- MsgReadReturnsTheBytesWritten: one byte written and read; with 4 bytes of MSG, the upper half of
a word. -/
theorem witness_msg_read_back :
    let s : State := { State.reset with
      sched := [.bus (.write 0x1000 .one 0x61), .bus (.read 0x1000 .one)] }
    s.msg.wf ∧ s.rst = false ∧ s.busy = false ∧
    (0x1000 : Word32).toNat + bytesOf .one ≤ 0x1000 + Config.msgCap ∧
    s.sched = .bus (.write 0x1000 .one 0x61) :: .bus (.read 0x1000 .one) :: [] ∧
    ((0x1002 : Word32).toNat % bytesOf .two = 0 ∧
      (0x1002 : Word32).toNat + bytesOf .two ≤ (0x1000 : Word32).toNat + bytesOf .four) := by
  have := Config.msgCap_bounds
  refine ⟨Memory.wf_nil 0, rfl, rfl, ?_, rfl, by decide⟩
  simp [bytesOf]
  omega

/-- RegisterReadsAnswerTheirBytes and DigestReadsAnswerTheirCharacters: aligned offsets at their
bounds; the last character of base 60 and the first byte past its string. -/
theorem witness_read_offsets :
    (3 : BitVec 2).toNat % bytesOf .one = 0 ∧ (0 : BitVec 2).toNat % bytesOf .four = 0 ∧
    (62 : BitVec 6).toNat % bytesOf .two = 0 ∧ 2 < digitCount .b60 ∧ 4 * digitCount .b60 ≤ 12 := by
  decide

/-- MisalignedReadsAreBusErrors, both clauses. -/
theorem witness_misaligned :
    (1 : BitVec 2).toNat % bytesOf .two ≠ 0 ∧ (3 : BitVec 2).toNat % bytesOf .four ≠ 0 ∧
    (63 : BitVec 6).toNat % bytesOf .two ≠ 0 := by decide

/-- HostReadsHaveNoSideEffect. -/
theorem witness_two_reads :
    let s : State := { padState with sched := [.bus (.read 0x8 .four), .bus (.read 0x8 .four)] }
    s.rst = false ∧ s.sched = .bus (.read 0x8 .four) :: .bus (.read 0x8 .four) :: [] := ⟨rfl, rfl⟩

/-- HostReadsDependOnVisibleStateOnly: two states that differ in ACC and the counters only. -/
theorem witness_hidden_state :
    let s : State := { padState with sched := [.bus (.read 0x8 .four)] }
    let s' : State := { s with acc := #v[1, 2, 3, 4], r := 7, upc := 0x03 }
    s.rst = false ∧ s'.rst = false ∧ s.msg = s'.msg ∧ s.out = s'.out ∧ s.busy = s'.busy ∧
    (∃ t, step s = .next t) ∧ (∃ t, step s' = .next t) :=
  ⟨rfl, rfl, rfl, rfl, rfl, ⟨_, rfl⟩, ⟨_, rfl⟩⟩

/-- BusErrorChangesNothing, both step clauses. -/
theorem witness_illegal :
    decode (.bus (.read 0x020 .four)) = .ok (.busErr (.read 0x020 .four)) ∧
    decode (.bus (.write 0x004 .one 0x1)) = .ok (.busErr (.write 0x004 .one 0x1)) ∧
    ({ State.reset with sched := [.bus (.read 0x020 .four)] } : State).sched =
      .bus (.read 0x020 .four) :: [] ∧
    ({ State.reset with sched := [.bus (.write 0x004 .one 0x1)] } : State).sched =
      .bus (.write 0x004 .one 0x1) :: [] := by decide

/-- IdleEngineWaits. -/
theorem witness_idle : State.reset.upc = 0x00 ∧ State.reset.sched = [] := ⟨rfl, rfl⟩

/-- PadAppendsOneTailWord: t at its last entry, the last tail word and one before it. For
InvariantStatesGoOn, t past its last entry. -/
theorem witness_pad :
    ({ padState with t := 62 } : State).t.toNat < 63 ∧ 1 ≤ padState.len.toNat ∧
    ({ mixState with upc := 0x01 } : State).t.toNat = 63 ∧
    look (fun t => decide (t.t = padState.nt)) (exec .pad { padState with t := 62 }) = some true ∧
    look (fun t => decide (t.t = padState.nt)) (exec .pad { padState with t := 61 }) = some false :=
  ⟨by decide, by decide, by decide, rfl, rfl⟩

/-- InvariantStatesGoOn: the two stops. -/
theorem witness_stops :
    step { mixState with upc := 0x01 } = .fault .tailIndexOutOfRange ∧
    step { mixState with upc := 0x0D } = .refused (.reservedMicroOp 0x0D) := ⟨rfl, rfl⟩

/-- InitSeedsTheAccumulator: a length with its tail count. -/
theorem witness_init : (padState.len.toNat + padState.nt.toNat) % 64 = 0 := rfl

/-- MixAbsorbsThePortion: a message byte, and the first and the last tail word. -/
theorem witness_mix_words :
    0 < mixState.len.toNat ∧ 1 - mixState.len.toNat < 63 ∧ mixState.len.toNat ≤ 1 ∧
    63 - mixState.len.toNat < 63 ∧ 63 < mixState.len.toNat + mixState.nt.toNat := by decide

/-- AlphabetStageAppliesInOrder and RoundStepsComputeRoundPipeline. -/
theorem witness_round :
    ({ mixState with upc := 0x05 } : State).upc = 0x05 ∧
    ({ mixState with upc := 0x04 } : State).upc = 0x04 ∧ mixState.rst = false ∧
    mixState.sched = [] := ⟨rfl, rfl, rfl, rfl⟩

/-- PrimeReducesThenMixes: the last round prime and the one before it. -/
theorem witness_prime : (89 : BitVec 7).toNat = 89 ∧ (88 : BitVec 7).toNat < 89 := by decide

/-- AddReinjectsAndAdvances, each clause at its bound. -/
theorem witness_advance :
    (29 : BitVec 5).toNat < 30 ∧ 30 ≤ (30 : BitVec 5).toNat ∧ (2 : BitVec 2).toNat < 3 ∧
    (3 : BitVec 2).toNat = 3 ∧ (0 : BitVec 32).toNat + 1 < (2 : BitVec 32).toNat ∧
    (2 : BitVec 32).toNat ≤ (1 : BitVec 32).toNat + 1 := by decide

/-- MicroOpsWriteOnlyTheirRow. -/
theorem witness_micro_op :
    Instr.isMicroOp .pad = true ∧ look (·.t) (exec .pad padState) = some 1 := ⟨rfl, rfl⟩

/-- OutChangesOnlyAtFinishClearReset: FINISH changes OUT. -/
theorem witness_out_changes :
    look (fun t => decide (t.out ≠ finishState.out)) (step finishState) = some true := by decide

/-- RegistersChangeOnlyAtTheirWriters: a LEN write changes LEN, CAPT changes PRE, FINISH's
accumulator is cleared by CLEAR. -/
theorem witness_registers_change :
    look (·.len) (step { State.reset with sched := [.bus (.write 0x010 .four 3)] }) = some 3 ∧
    look (·.pre) (step { mixState with acc := #v[1, 2, 3, 4], upc := 0x04 }) =
      some #v[1, 2, 3, 4] ∧
    look (·.acc) (step { finishState with sched := [.command 0x2] }) = some #v[0, 0, 0, 0] := by
  decide

/-- StatusBitsChangeAsTheTableSays: BUSY falls and DONE rises at FINISH, ERR rises at a refused
START, WERR rises at a LEN write while busy, and each falls at a STATUS write. -/
theorem witness_status_changes :
    look (fun t => (t.busy, t.done)) (step finishState) = some (false, true) ∧
    look (·.err) (step { State.reset with sched := [.command 0x1] }) = some true ∧
    look (·.werr) (step { padState with sched := [.bus (.write 0x010 .four 3)] }) = some true ∧
    look (fun t => (t.done, t.werr)) (step { State.reset with
      done := true, werr := true, sched := [.bus (.write 0x008 .four 0xA)] }) =
      some (false, false) ∧
    look (·.err) (step { State.reset with
      err := true, cause := 1, sched := [.bus (.write 0x008 .four 0x4)] }) = some false := by decide

/-- StatusBitsChangeAsTheTableSays: BUSY rises at an accepted START. -/
theorem witness_busy_rises :
    look (·.busy) (step { State.reset with len := 1, sched := [.command 0x1] }) = some true := rfl

/-- IrqIsEnableAndDoneOrErr. -/
theorem witness_irq :
    State.reset.busy = false ∧ State.reset.len = 0 ∧ (0x6 : Word32)[1] = true ∧
    (0x6 : Word32)[2] = true ∧ (∃ t, exec (.start 0x5) State.reset = .next t) ∧
    ∃ t, exec .finish State.reset = .next t :=
  ⟨rfl, rfl, by decide, by decide, ⟨_, rfl⟩, ⟨_, rfl⟩⟩

/-- ErrorsAreRecoverable: the state after a refused START, with LEN 0 and with LEN mended. -/
theorem witness_error :
    let s : State := { State.reset with err := true, cause := 1 }
    s.err = true ∧ s.busy = false ∧ s.len.toNat = 0 ∧ (0x4 : Word32)[2] = true ∧
    1 ≤ (1 : Word32).toNat ∧ (1 : Word32).toNat ≤ Config.msgCap := by
  have := Config.msgCap_bounds
  simp [State.reset]
  omega

/-- RunningHashIsUndisturbed: a LEN write in a running hash. -/
theorem witness_disturb :
    let s : State := { padState with sched := [.bus (.write 0x010 .four 9)] }
    s.busy = true ∧ s.sched = .bus (.write 0x010 .four 9) :: [] ∧
    Event.bus (.write 0x010 .four 9) ≠ .engine ∧
    (Event.bus (.write 0x010 .four 9)).isClear = false ∧
    (Event.bus (.write 0x010 .four 9)).isReset = false ∧
    look (·.len) (step s) = some 1 := by decide

/-- ResultIndependentOfInterleavedReads. -/
theorem witness_interleaving :
    padState.Inv ∧ padState.rst = false ∧
    ∀ e ∈ [Event.engine, .bus (.read 0x8 .four), .engine], e = .engine ∨ e.isRead = true :=
  ⟨padState_inv, rfl, by decide⟩

/-- BytesBeyondTheLengthDoNotMatter: two memories that differ at index 1, the length being 1. -/
theorem witness_bytes_beyond :
    padState.Inv ∧ padState.sched = [] ∧
    ∀ i, i < padState.len.toNat → (⟨0, [(1, 0x55)]⟩ : Memory).read i = padState.msg.read i := by
  refine ⟨padState_inv, rfl, fun i hi => ?_⟩
  have : i = 0 := by
    simp [padState] at hi
    omega
  subst this
  rfl

/-- PaddedStreamShape, DigitsArePositional, DigestsTellResultsApart and
ByteViewIsReadAtItsAddresses. -/
theorem witness_values :
    [(0x61 : Byte)] ≠ [] ∧ (18 : Nat) ∈ digits .b60 0xFFFF ∧
    digestString .b16 viewState.out = digestString .b16 viewState.out ∧ 7 < 8 ∧
    ({ viewState with sched := [.bus (.read (BitVec.ofNat 32 (0x018 + 7)) .one)] } : State).sched =
      .bus (.read (BitVec.ofNat 32 (0x018 + 7)) .one) :: [] :=
  ⟨by decide, by decide, rfl, by decide, rfl⟩

/-- PadStepsProduceThePaddedMessage and EngineComputesPoxHash: an idle block with one byte to hash. -/
theorem witness_hash :
    let s : State := { State.reset with len := 1 }
    s.rst = false ∧ s.sched = [] ∧ s.busy = false ∧ 1 ≤ s.len.toNat ∧
    s.len.toNat ≤ Config.msgCap := by
  have := Config.msgCap_bounds
  simp [State.reset]
  omega

end Sys2Proof.Tests
end

section
/-! PROOFS, family 00_scope.md. The digest string loses nothing of OUT (45_digest.md R171 to R174):
a character gives its digit back by its place in the alphabet, whose codes are distinct (R10), the
digits give their word back by the positional value (R172), and the width is the same for every word
of a base, so the string splits into its four words in one way. -/

namespace Sys2Proof.Machine

/-- The `w` lowest digits of `n` in base `B`, most significant first, have the value `n mod B^w`. -/
theorem foldl_range_digits (B n w : Nat) :
    ((List.range w).map fun k => n / B ^ (w - 1 - k) % B).foldl (fun acc d => acc * B + d) 0 =
      n % B ^ w := by
  induction w generalizing n with
  | zero => simp [Nat.mod_one]
  | succ w ih =>
    have upper : ∀ k ∈ List.range w, n / B ^ (w - k) % B = n / B / B ^ (w - 1 - k) % B := by
      intro k hk
      have hk : w - k = w - 1 - k + 1 := by have := List.mem_range.1 hk; omega
      rw [hk, Nat.pow_succ', Nat.div_div_eq_div_mul]
    rw [Nat.add_sub_cancel, List.range_succ, List.map_append, List.foldl_append,
      List.map_congr_left upper, ih, Nat.pow_succ', Nat.mod_mul]
    simp [Nat.mul_comm, Nat.add_comm]

/-- A word is the positional value of its digits (R172), since W_B digits are enough (R171). -/
theorem digits_foldl (b : Base) (v : Word) :
    (digits b v).foldl (fun acc d => acc * Config.radix b + d) 0 = v.toNat := by
  rw [digits, foldl_range_digits]
  exact Nat.mod_eq_of_lt (v.isLt.trans_le (Config.width_wide b))

theorem digits_injective (b : Base) : Function.Injective (digits b) := fun v w h =>
  BitVec.eq_of_toNat_eq (by rw [← digits_foldl b v, h, digits_foldl])

/-- A character's place in its alphabet is the digit it stands for, the codes being distinct (R10). -/
theorem idxOf_charOf (b : Base) {d : Nat} (h : d < Config.radix b) :
    (Config.alphabet b).idxOf (charOf b d) = d := by
  have hd : d < (Config.alphabet b).length := by rwa [Config.alphabet_length]
  rw [charOf, List.getD_eq_getElem _ _ hd, (Config.alphabet_nodup b).idxOf_getElem]

/-- The characters of a word give its digits back. -/
theorem map_idxOf_chars (b : Base) (v : Word) :
    (chars b v).map (Config.alphabet b).idxOf = digits b v := by
  rw [chars, List.map_map]
  calc (digits b v).map ((Config.alphabet b).idxOf ∘ charOf b)
      _ = (digits b v).map id :=
        List.map_congr_left fun d hd => idxOf_charOf b (digits_lt b v d hd)
      _ = digits b v := List.map_id _

theorem chars_injective (b : Base) : Function.Injective (chars b) := fun v w h =>
  digits_injective b (by rw [← map_idxOf_chars b v, h, map_idxOf_chars])

/-- Equal digest strings agree word by word: every word of a base has W_B characters (R171, R174). -/
theorem chars_eq_of_digestString_eq {b : Base} {x y : Factor}
    (h : digestString b x = digestString b y) :
    chars b x[0] = chars b y[0] ∧ chars b x[1] = chars b y[1] ∧
      chars b x[2] = chars b y[2] ∧ chars b x[3] = chars b y[3] := by
  have len : ∀ v w, (chars b v).length = (chars b w).length := fun v w => by
    rw [chars_length, chars_length]
  obtain ⟨h012, h3⟩ := List.append_inj' h (len _ _)
  obtain ⟨h01, h2⟩ := List.append_inj' h012 (len _ _)
  obtain ⟨h0, h1⟩ := List.append_inj' h01 (len _ _)
  exact ⟨h0, h1, h2, h3⟩

/-- Settles O58: the digest string is cut into its four words, and each word's characters are those of
that word alone. -/
theorem digestsTellResultsApart : Obligations.DigestsTellResultsApart := by
  intro b x y h
  obtain ⟨h0, h1, h2, h3⟩ := chars_eq_of_digestString_eq h
  ext1 i hi
  match i with
  | 0 => exact chars_injective b h0
  | 1 => exact chars_injective b h1
  | 2 => exact chars_injective b h2
  | 3 => exact chars_injective b h3

end Sys2Proof.Machine
end

section
/-! PROOFS, family 10_state.md, the invariant. Every step keeps `State.Inv` (R24, R32, R76, R77):
the host's turns leave a running hash alone or work on an idle engine, START enters PAD or INIT with
the counters of its length, and each micro-op hands its successor what that one relies on. -/

namespace Sys2Proof.Machine

/-! ## The shapes of a state that meets the invariant -/

/-- The invariant does not speak of these ten fields. -/
theorem State.Inv.frame {s : State} (h : s.Inv) (ie werr : Bool) (out acc pre : Factor)
    (ch po : BitVec 2) (rst : Bool) (resp : Option Response) (sched : List Event) :
    State.Inv { s with
      ie := ie, werr := werr, out := out, acc := acc, pre := pre, ch := ch, po := po, rst := rst
      resp := resp, sched := sched } :=
  { h with }

/-- Where the engine is idle, nothing is said of LEN, TAIL and the counters but r and q. -/
theorem State.Inv.of_idle {s : State} (hu : s.upc = upcIdle) (hb : s.busy = false)
    (hde : ¬(s.done = true ∧ s.err = true)) (hec : s.err = true ↔ s.cause ≠ 0) (hc : s.cause ≠ 3)
    (hr : s.r.toNat ≤ 30) (hq : s.q = 0) (hm : s.msg.wf)
    (hw : ∀ c ∈ s.msg.cells, c.1 < Config.msgCap) : s.Inv where
  done_err := hde
  err_cause := hec
  cause_code := hc
  round_range := hr
  msg_wf := hm
  msg_window := hw
  upc_code := by simp [hu]
  busy_iff := by simp [hu, hb]
  busy_flags := by simp [hb]
  prime_range := by simp [hq]
  prime_idle := fun _ => hq
  busy_len := by simp [hb]
  busy_tail := by simp [hb]
  pad_count := by simp [hu]
  padded_count := by simp [hb]
  pad_counter := by simp [hb]
  tail_range := by simp [hb]
  block_count := by simp [hb]
  block_range := by simp [hu, inPortionLoop]

/-- At START and while padding, nothing is said of NB, blk and the Factors. -/
theorem State.Inv.of_padding {s : State} (hb : s.busy = true)
    (hu : (s.upc = upcPad ∧ s.t.toNat < s.nt.toNat) ∨ (s.upc = upcInit ∧ s.t = s.nt))
    (hf : s.done = false ∧ s.err = false ∧ s.cause = 0)
    (hlen : 1 ≤ s.len.toNat ∧ s.len.toNat ≤ Config.msgCap) (hnt : s.nt = tailCount s.len)
    (hn : s.len.toNat ≤ s.n.toNat ∧ s.n.toNat ≤ s.len.toNat + 255 * s.t.toNat)
    (htail : ∀ j (h : j < 63), j < s.t.toNat → s.tail[j].toNat < 256)
    (hr : s.r.toNat ≤ 30) (hq : s.q = 0) (hm : s.msg.wf)
    (hw : ∀ c ∈ s.msg.cells, c.1 < Config.msgCap) : s.Inv where
  busy_len := fun _ => hlen
  busy_tail := fun _ => hnt
  pad_counter := fun _ => hn
  tail_range := fun _ => htail
  round_range := hr
  msg_wf := hm
  msg_window := hw
  done_err := by simp [hf]
  busy_flags := by simp [hf]
  err_cause := by simp [hf]
  cause_code := by simp [hf]
  prime_range := by simp [hq]
  prime_idle := fun _ => hq
  upc_code := by rcases hu with ⟨e, -⟩ | ⟨e, -⟩ <;> simp [e]
  busy_iff := by rcases hu with ⟨e, -⟩ | ⟨e, -⟩ <;> simp [e, hb]
  pad_count := by
    rcases hu with ⟨-, ht⟩ | ⟨e, -⟩
    · exact fun _ => ht
    · simp [e]
  padded_count := by
    rcases hu with ⟨e, -⟩ | ⟨-, ht⟩
    · simp [e]
    · exact fun _ _ => ht
  block_count := by rcases hu with ⟨e, -⟩ | ⟨e, -⟩ <;> simp [e]
  block_range := by rcases hu with ⟨e, -⟩ | ⟨e, -⟩ <;> simp [e, inPortionLoop]

theorem State.Inv.upc_eq_idle {s : State} (h : s.Inv) (hb : s.busy = false) : s.upc = upcIdle := by
  by_contra hu
  simp [h.busy_iff.2 hu] at hb

theorem State.Inv.busy_of_upc {s : State} (h : s.Inv) (hu : s.upc.toNat ≠ 0) : s.busy = true :=
  h.busy_iff.2 fun e => hu (by rw [e]; rfl)

/-! ## The host's turns -/

theorem State.Inv.answer {s : State} (h : s.Inv) (r : Response) : (s.answer r).Inv := h.frame ..

theorem State.Inv.setIe {s : State} (h : s.Inv) (d : Word32) : (s.setIe d).Inv := h.frame ..

theorem State.Inv.dropWrite {s : State} (h : s.Inv) : s.dropWrite.Inv := h.frame ..

theorem State.Inv.clearCommand {s : State} (h : s.Inv) : s.clearCommand.Inv :=
  .of_idle rfl rfl (by simp) (by simp) (by simp) (by simp) rfl h.msg_wf h.msg_window

/-- The reset values meet the invariant (R221). -/
theorem State.resetRegisters_inv (s : State) : s.resetRegisters.Inv :=
  .of_idle rfl rfl (by simp) (by simp) (by simp) (by simp) rfl (Memory.wf_nil _) (by simp)

/-- A refused START leaves the engine idle, with ERR and one of the two causes (R201, R203). -/
theorem State.Inv.refuseStart {s : State} (h : s.Inv) (hb : s.busy = false) (c : ErrorCause) :
    (s.clearOutcome.raiseError c).Inv := by
  have hu := h.upc_eq_idle hb
  have hc : causeCode c ≠ 0 ∧ causeCode c ≠ 3 := by cases c <;> decide
  exact .of_idle hu hb (by simp) (by simpa using hc.1) hc.2 h.round_range
    (h.prime_idle (by simp [hu])) h.msg_wf h.msg_window

/-- An accepted START has its length's tail count, no tail word yet, and goes to PAD exactly where
some are missing (R101). -/
theorem State.Inv.acceptStart {s : State} (h : s.Inv) (hb : s.busy = false) (h1 : 1 ≤ s.len.toNat)
    (hcap : s.len.toNat ≤ Config.msgCap) : s.clearOutcome.beginHash.Inv := by
  have hn : (s.len.setWidth 64).toNat = s.len.toNat := by
    rw [BitVec.toNat_setWidth, Nat.mod_eq_of_lt (by have := s.len.isLt; omega)]
  refine .of_padding rfl ?_ (by simp) ⟨h1, hcap⟩ rfl (by simp [hn]) (by simp) h.round_range
    (h.prime_idle (by simp [h.upc_eq_idle hb])) h.msg_wf h.msg_window
  obtain ⟨h0, hu⟩ | ⟨h0, hu⟩ := firstMicroOp_cases (tailCount s.len)
  · exact .inr ⟨hu, h0.symm⟩
  · exact .inl ⟨hu, Nat.pos_of_ne_zero fun e => h0 (BitVec.eq_of_toNat_eq e)⟩

theorem State.Inv.ctrlWrite {s : State} (h : s.Inv) (d : Word32) : (s.ctrlWrite d).Inv := by
  obtain ⟨-, e⟩ | ⟨-, -, -, e⟩ | ⟨-, -, hb, -, c, e⟩ | ⟨-, -, hb, h1, hcap, e⟩ | ⟨-, -, e⟩ :=
    s.ctrlWrite_outcomes d <;> rw [e]
  · exact (h.setIe d).clearCommand
  · exact (h.setIe d).dropWrite
  · exact (h.setIe d).refuseStart hb c
  · exact (h.setIe d).acceptStart hb h1 hcap
  · exact h.setIe d

/-- A STATUS write clears ERR and CAUSE together, and sets no flag (R104). -/
theorem State.Inv.statusWrite {s : State} (h : s.Inv) (d : Word32) : (s.statusWrite d).Inv := by
  rw [State.statusWrite_eq]
  have hde := h.done_err
  have hec := h.err_cause
  have hc := h.cause_code
  exact { h with
    done_err := by simp_all
    busy_flags := fun hb => by simp [h.busy_flags hb]
    err_cause := by cases d[2] <;> simp_all
    cause_code := by cases d[2] <;> simp_all }

/-- The LEN write stores, or drops while busy (R105). -/
theorem State.lenWrite_cases (s : State) (d : Word32) :
    (s.busy = true ∧ s.lenWrite d = s.dropWrite) ∨
    (s.busy = false ∧ s.lenWrite d = { s with len := d }) := by
  unfold State.lenWrite
  cases s.busy <;> simp

/-- The MSG write stores, or drops while busy (R106). -/
theorem State.msgWrite_cases (s : State) (i : Nat) (n : Size) (d : Word32) :
    (s.busy = true ∧ s.msgWrite i n d = s.dropWrite) ∨
    (s.busy = false ∧ s.msgWrite i n d = { s with msg := s.msg.writeBytes i d n }) := by
  unfold State.msgWrite
  cases s.busy <;> simp

theorem State.Inv.lenWrite {s : State} (h : s.Inv) (d : Word32) : (s.lenWrite d).Inv := by
  obtain ⟨-, e⟩ | ⟨hb, e⟩ := s.lenWrite_cases d <;> rw [e]
  · exact h.dropWrite
  · have hu := h.upc_eq_idle hb
    exact .of_idle hu hb h.done_err h.err_cause h.cause_code h.round_range
      (h.prime_idle (by simp [hu])) h.msg_wf h.msg_window

theorem State.Inv.msgWrite {s : State} (h : s.Inv) {i : Nat} {n : Size}
    (hi : i + bytesOf n ≤ Config.msgCap) (d : Word32) : (s.msgWrite i n d).Inv := by
  obtain ⟨-, e⟩ | ⟨-, e⟩ := s.msgWrite_cases i n d <;> rw [e]
  · exact h.dropWrite
  · exact { h with
      msg_wf := Memory.writeBytes_wf h.msg_wf i d n
      msg_window := Memory.writeBytes_window h.msg_window hi d }

theorem hostTurn_keeps_inv {e : Encoding} {s t : State} (he : ∀ op, e ≠ .micro op) (h : s.Inv)
    (ht : hostTurn e s = .next t) : t.Inv := by
  obtain ⟨-, rfl⟩ | ⟨r, rfl⟩ | ⟨d, -, rfl⟩ | ⟨d, -, rfl⟩ | ⟨d, -, rfl⟩ |
    ⟨a, n, d, -, hlo, -, hhi, rfl⟩ := hostTurn_cases he ht
  · exact h.frame ..
  · exact h.answer r
  · exact (h.ctrlWrite d).answer _
  · exact (h.statusWrite d).answer _
  · exact (h.lenWrite d).answer _
  · exact (h.msgWrite (by omega) d).answer _

/-! ## The engine's turns -/

/-- A tail word is the exclusive or of two bytes (R125). -/
theorem State.padWord_lt (s : State) : s.padWord.toNat < 256 := by
  rw [State.padWord, ← BitVec.setWidth_xor, BitVec.toNat_setWidth]
  omega

/-- PAD adds less than 256 to n, without a carry loss (R126). -/
theorem State.Inv.padCounter_add {s : State} (h : s.Inv) (hb : s.busy = true) :
    (s.n + s.padWord.setWidth 64).toNat = s.n.toNat + s.padWord.toNat := by
  have := h.pad_counter hb
  have := s.padWord_lt
  have := s.len.isLt
  have := s.t.isLt
  rw [BitVec.toNat_add, BitVec.toNat_setWidth]
  omega

/-- PAD produces one of the missing words, a byte's value, and stays in PAD exactly while words are
missing (R122, R125, R126). -/
theorem State.Inv.pad {s t : State} (h : s.Inv) (hu : s.upc = upcPad)
    (ht : execPad s = .next t) : t.Inv := by
  have hb : s.busy = true := h.busy_of_upc (by simp [hu])
  have hmissing := h.pad_count hu
  have ht1 : (s.t + 1).toNat = s.t.toNat + 1 := by
    have := s.nt.isLt
    rw [BitVec.toNat_add, Nat.mod_eq_of_lt (by simp; omega)]
    rfl
  obtain ⟨hdone, herr⟩ := h.busy_flags hb
  have hcause : s.cause = 0 := by simpa [herr] using h.err_cause
  unfold execPad at ht
  split at ht <;> cases ht
  refine .of_padding hb ?next ⟨hdone, herr, hcause⟩ (h.busy_len hb) (h.busy_tail hb) ?counter ?tail
    h.round_range (h.prime_idle (by simp [hu])) h.msg_wf h.msg_window
  case next =>
    by_cases hlast : s.t + 1 = s.nt
    · exact .inr ⟨if_pos hlast, hlast⟩
    · have := mt BitVec.eq_of_toNat_eq hlast
      exact .inl ⟨if_neg hlast, by dsimp only; omega⟩
  case counter =>
    have := h.pad_counter hb
    have := h.padCounter_add hb
    have := s.padWord_lt
    dsimp only
    omega
  case tail =>
    intro j hj hlt
    dsimp only at hlt ⊢
    rw [Vector.getElem_set]
    split
    · exact s.padWord_lt
    · exact h.tail_range hb j hj (by omega)

/-- The padded stream fills its blocks (R124). -/
theorem blockCount_toNat {len : Word32} (h : len.toNat ≤ Config.msgCap) :
    64 * (blockCount len (tailCount len)).toNat = len.toNat + (tailCount len).toNat := by
  have := Config.msgCap_bounds
  rw [blockCount, BitVec.toNat_ofNat, tailCount_toNat]
  omega

/-- INIT enters the portion loop at block 0 of at least one. -/
theorem State.Inv.init {s t : State} (h : s.Inv) (hu : s.upc = upcInit)
    (ht : execInit s = .next t) : t.Inv := by
  have hb : s.busy = true := h.busy_of_upc (by simp [hu])
  obtain ⟨h1, hcap⟩ := h.busy_len hb
  have hnb := blockCount_toNat hcap
  rw [← h.busy_tail hb] at hnb
  cases ht
  exact { h with
    upc_code := by simp
    busy_iff := by simp [hb]
    round_range := by simp
    prime_idle := fun _ => h.prime_idle (by simp [hu])
    pad_count := by simp
    padded_count := fun _ _ => h.padded_count hb (by simp [hu])
    block_count := fun _ _ _ => hnb
    block_range := fun _ => by
      change 0 < (blockCount s.len s.nt).toNat
      omega }

/-- From a micro-op of the portion loop to the next, or to FINISH: what the successor relies on is
its round, its round prime and its block. -/
theorem State.Inv.nextInLoop {s : State} (h : s.Inv) (hs : inPortionLoop s.upc) {u : BitVec 5}
    {r : BitVec 5} {q : BitVec 7} {blk : BitVec 32} (hu : 3 ≤ u.toNat ∧ u.toNat ≤ 12)
    (hr : r.toNat ≤ 30) (hq : q.toNat ≤ 89) (hprime : u ≠ upcPrime → q = 0)
    (hblk : blk.toNat < s.nb.toNat) :
    State.Inv { s with upc := u, r := r, q := q, blk := blk } := by
  have hne : ∀ {v w : BitVec 5}, 3 ≤ v.toNat → w.toNat < 3 → v ≠ w := by
    rintro v _ hv hw rfl
    omega
  have hb : s.busy = true := h.busy_of_upc (by omega)
  exact { h with
    upc_code := hu.2
    busy_iff := by simp [hb, hne hu.1]
    round_range := hr
    prime_range := hq
    prime_idle := hprime
    pad_count := fun e => absurd e (hne hu.1 (by decide))
    padded_count := fun _ _ => h.padded_count hb (hne hs.1 (by decide))
    block_count := fun _ _ _ => h.block_count hb (hne hs.1 (by decide)) (hne hs.1 (by decide))
    block_range := fun _ => hblk }

/-- MIX, CAPT, ALPHA, DELTA, THETA and SHUF change a Factor and move on to a micro-op that is not
PRIME. -/
theorem State.Inv.stage {s t : State} (h : s.Inv) {u v : BitVec 5} {acc pre : Factor}
    (hu : s.upc = u)
    (ht : (.next { s with acc := acc, pre := pre, upc := v } : Host.Outcome State Fault Refusal) =
      .next t)
    (hs : inPortionLoop u ∧ u ≠ upcPrime ∧ 3 ≤ v.toNat ∧ v.toNat ≤ 12 := by decide) : t.Inv := by
  subst hu
  obtain ⟨hs, hne, hv⟩ := hs
  cases ht
  exact (h.nextInLoop hs hv h.round_range h.prime_range (fun _ => h.prime_idle hne)
    (h.block_range hs)).frame ..

/-- GAMMA enters PRIME at the table's first entry (R144). -/
theorem State.Inv.gamma {s t : State} (h : s.Inv) (hu : s.upc = upcGamma)
    (ht : execGamma s = .next t) : t.Inv := by
  have hs : inPortionLoop s.upc := by rw [hu]; decide
  cases ht
  exact (h.nextInLoop (u := upcPrime) (q := 0) hs (by decide) h.round_range (by decide)
    (fun _ => rfl) (h.block_range hs)).frame ..

/-- ADVANCE keeps r a round and blk a block (R162). -/
theorem State.Inv.advance {s : State} (h : s.Inv) (hu : s.upc = upcAdd) : s.advance.Inv := by
  have hs : inPortionLoop s.upc := by rw [hu]; decide
  have hq := h.prime_idle (by simp [hu])
  have hblk := h.block_range hs
  have next : ∀ {u : BitVec 5} {r : BitVec 5} {blk : BitVec 32}, 3 ≤ u.toNat ∧ u.toNat ≤ 12 →
      r.toNat ≤ 30 → blk.toNat < s.nb.toNat → State.Inv { s with upc := u, r := r, blk := blk } :=
    fun hu hr hblk => h.nextInLoop hs hu hr h.prime_range (fun _ => hq) hblk
  obtain ⟨hr, e⟩ | ⟨-, -, e⟩ | ⟨-, -, -, e⟩ | ⟨-, -, -, hlt, e⟩ | ⟨-, -, -, -, e⟩ :=
    s.advance_cases <;> rw [e]
  · exact next (u := upcMix) (r := s.r + 1) (by decide) (by rw [BitVec.toNat_add]; simp; omega) hblk
  · exact (next (u := upcMix) (r := 0) (by decide) (by decide) hblk).frame ..
  · exact (next (u := upcMix) (r := 0) (by decide) (by decide) hblk).frame ..
  · exact (next (u := upcMix) (r := 0) (blk := s.blk + 1) (by decide) (by decide)
      (by rw [BitVec.toNat_add]; simp; omega)).frame ..
  · exact (next (u := upcFinish) (r := 0) (by decide) (by decide) hblk).frame ..

theorem State.Inv.add {s t : State} (h : s.Inv) (hu : s.upc = upcAdd)
    (ht : execAdd s = .next t) : t.Inv := by
  cases ht
  exact State.Inv.advance (s := { s with acc := _ }) (h.frame ..) hu

/-- PRIME counts q up to the last entry of the table, and leaves 0 (R145). -/
theorem State.Inv.prime {s t : State} (h : s.Inv) (hu : s.upc = upcPrime)
    (ht : execPrime s = .next t) : t.Inv := by
  have hs : inPortionLoop s.upc := by rw [hu]; decide
  have hq := h.prime_range
  unfold execPrime at ht
  split at ht <;> cases ht
  · exact (h.nextInLoop (u := upcShuf) (q := 0) hs (by decide) h.round_range (by decide)
      (fun _ => rfl) (h.block_range hs)).frame ..
  · exact (h.nextInLoop (u := upcPrime) (q := s.q + 1) hs (by decide) h.round_range
      (by rw [BitVec.toNat_add]; simp; omega) (fun hne => absurd rfl hne)
      (h.block_range hs)).frame ..

/-- FINISH sets DONE where a running hash has no error, and goes idle (R163). -/
theorem State.Inv.finish {s t : State} (h : s.Inv) (hu : s.upc = upcFinish)
    (ht : execFinish s = .next t) : t.Inv := by
  have herr := (h.busy_flags (h.busy_of_upc (by simp [hu]))).2
  cases ht
  exact .of_idle rfl rfl (by simp [herr]) h.err_cause h.cause_code h.round_range
    (h.prime_idle (by simp [hu])) h.msg_wf h.msg_window

/-- The engine's turn changes nothing in reset, else it runs the micro-op that `upc` names (R71). -/
theorem engineTurn_exec {s t : State} (h : engineTurn s = .next t) :
    t = s ∨ ∃ i, decodeMicro s.upc = .ok i ∧ exec i s = .next t := by
  unfold engineTurn at h
  split at h
  · cases h
    exact .inl rfl
  · unfold runEncoding at h
    split at h
    · next i hi => exact .inr ⟨i, hi, h⟩
    · cases h

theorem engineTurn_keeps_inv {s t : State} (h : s.Inv) (ht : engineTurn s = .next t) : t.Inv := by
  obtain rfl | ⟨i, hi, ht⟩ := engineTurn_exec ht
  · exact h
  rcases decodeMicro_cases hi with ⟨hu, rfl⟩ | ⟨hu, rfl⟩ | ⟨hu, rfl⟩ | ⟨hu, rfl⟩ | ⟨hu, rfl⟩ |
    ⟨hu, rfl⟩ | ⟨hu, rfl⟩ | ⟨hu, rfl⟩ | ⟨hu, rfl⟩ | ⟨hu, rfl⟩ | ⟨hu, rfl⟩ | ⟨hu, rfl⟩ | ⟨hu, rfl⟩
  · cases ht
    exact h
  · exact h.pad hu ht
  · exact h.init hu ht
  · exact h.stage hu ht
  · exact h.stage hu ht
  · exact h.stage hu ht
  · exact h.stage hu ht
  · exact h.stage hu ht
  · exact h.gamma hu ht
  · exact h.prime hu ht
  · exact h.stage hu ht
  · exact h.add hu ht
  · exact h.finish hu ht

/-- Settles O14, by whose turn the step takes. -/
theorem stepKeepsTheInvariant : Obligations.StepKeepsTheInvariant := by
  intro s t h ht
  obtain ⟨-, ht⟩ | ⟨rest, -, ht⟩ | ⟨d, rest, -, ht⟩ | ⟨x, rest, -, ht⟩ | ⟨rest, -, rfl⟩ |
    ⟨rest, -, rfl⟩ := step_cases ht
  · exact engineTurn_keeps_inv h ht
  · exact engineTurn_keeps_inv (h.withSched rest) ht
  · exact hostTurn_keeps_inv (by simp) (h.withSched rest) ht
  · exact hostTurn_keeps_inv (by simp) (h.withSched rest) ht
  · exact (State.resetRegisters_inv _).frame ..
  · exact h.frame ..

end Sys2Proof.Machine
end

section
/-! PROOFS, family 10_state.md, what the host sees (R40). -/

namespace Sys2Proof.Machine

/-- The two states agree on what the host can read: the host-visible registers and MSG (R40). -/
structure State.LooksLike (s s' : State) : Prop where
  ie : s.ie = s'.ie
  busy : s.busy = s'.busy
  done : s.done = s'.done
  err : s.err = s'.err
  werr : s.werr = s'.werr
  cause : s.cause = s'.cause
  len : s.len = s'.len
  out : s.out = s'.out
  msg : s.msg = s'.msg

theorem State.LooksLike.statusWord {s s' : State} (h : s.LooksLike s') :
    s.statusWord = s'.statusWord := by
  simp only [State.statusWord, State.irq, h.ie, h.busy, h.done, h.err, h.werr]

theorem State.LooksLike.ctrlWord {s s' : State} (h : s.LooksLike s') :
    s.ctrlWord = s'.ctrlWord := by
  simp only [State.ctrlWord, h.ie]

theorem State.LooksLike.causeWord {s s' : State} (h : s.LooksLike s') :
    s.causeWord = s'.causeWord := by
  simp only [State.causeWord, h.cause]

/-- A register read answers by the register's value alone. -/
theorem readRegister_answers (i : Item) (v : Word32) (off : BitVec 2) (n : Size) :
    ∃ r, ∀ s, readRegister i v off n s = s.answer r := by
  unfold readRegister
  split <;> exact ⟨_, fun _ => rfl⟩

/-- A digest read answers by OUT alone. -/
theorem readDigest_answers (b : Base) (out : Factor) (off : BitVec 6) (n : Size) :
    ∃ r, ∀ s : State, s.out = out → readDigest b off n s = s.answer r := by
  unfold readDigest
  split
  · exact ⟨.readData (selectDigest b out off n), by rintro s rfl; rfl⟩
  · exact ⟨_, fun _ _ => rfl⟩

/-- An MSG read answers by MSG alone. -/
theorem execRdMsg_answers (msg : Memory) (a : Word32) (n : Size) :
    ∃ r, ∀ s : State, s.msg = msg → execRdMsg a n s = .next (s.answer r) := by
  unfold execRdMsg
  split
  · exact ⟨.readData (assemble (fun k => msg.read (a.toNat - msgBase + k)) n), by rintro s rfl; rfl⟩
  · exact ⟨_, fun _ _ => rfl⟩

/-- Every item is read alike in two states that look alike. -/
theorem exec_decodeRead_alike {s s' : State} (h : s.LooksLike s') (a : Word32) (n : Size)
    (i : Item) : ∃ r, exec (decodeRead a n i) s = .next (s.answer r) ∧
      exec (decodeRead a n i) s' = .next (s'.answer r) := by
  have reg : ∀ {i v v'}, v = v' → ∃ r,
      (.next (readRegister i v (a.setWidth 2) n s) : Host.Outcome State Fault Refusal) =
        .next (s.answer r) ∧
      (.next (readRegister i v' (a.setWidth 2) n s') : Host.Outcome State Fault Refusal) =
        .next (s'.answer r) := by
    rintro i v _ rfl
    obtain ⟨r, hr⟩ := readRegister_answers i v (a.setWidth 2) n
    exact ⟨r, congrArg _ (hr s), congrArg _ (hr s')⟩
  cases i with
  | id => exact reg rfl
  | ctrl => exact reg h.ctrlWord
  | status => exact reg h.statusWord
  | cause => exact reg h.causeWord
  | len => exact reg h.len
  | cap => exact reg rfl
  | out01 => exact reg (congrArg out01 h.out)
  | out23 => exact reg (congrArg out23 h.out)
  | digest b =>
    obtain ⟨r, hr⟩ := readDigest_answers b s'.out (a.setWidth 6) n
    cases b <;> exact ⟨r, congrArg _ (hr s h.out), congrArg _ (hr s' rfl)⟩
  | msg =>
    obtain ⟨r, hr⟩ := execRdMsg_answers s'.msg a n
    exact ⟨r, hr s h.msg, hr s' rfl⟩

/-- A read, legal or not, is answered alike in two states that look alike. -/
theorem run_read_alike {s s' : State} (h : s.LooksLike s') (a : Word32) (n : Size) :
    ∃ r, runEncoding (.bus (.read a n)) s = .next (s.answer r) ∧
      runEncoding (.bus (.read a n)) s' = .next (s'.answer r) := by
  simp only [runEncoding, decode, decodeBus]
  split
  · split
    · exact exec_decodeRead_alike h a n _
    · exact ⟨_, rfl, rfl⟩
  · exact ⟨_, rfl, rfl⟩

/-- A transaction that is not held in reset runs its encoding (R70). -/
theorem step_bus {s : State} {x : Transaction} {rest : List Event} (hr : s.rst = false)
    (hs : s.sched = .bus x :: rest) : step s = runEncoding (.bus x) { s with sched := rest } := by
  rw [step_cons hs]
  exact if_neg (by simp [hr])

/-- Settles O31: the two states, less the turn they take, look alike. -/
theorem hostReadsDependOnVisibleStateOnly : Obligations.HostReadsDependOnVisibleStateOnly := by
  intro s s' t t' a n rest rest' hr hr' hie hbusy hdone herr hwerr hcause hlen hout hmsg hs hs'
    ht ht'
  obtain ⟨r, e, e'⟩ := run_read_alike (s := { s with sched := rest })
    (s' := { s' with sched := rest' })
    ⟨hie, hbusy, hdone, herr, hwerr, hcause, hlen, hout, hmsg⟩ a n
  rw [step_bus hr hs, e] at ht
  rw [step_bus hr' hs', e'] at ht'
  cases ht
  cases ht'
  exact ⟨rfl, rfl⟩

end Sys2Proof.Machine
end

section
/-! PROOFS, family 10_state.md, who writes what (R24, R26, R30, R33 to R35). One inversion lemma
lists the effects a step can have, each with the turn that has it and the fields it leaves alone;
the whole-machine rules are read off it case by case. -/

namespace Sys2Proof.Machine

/-- The turn is the engine's: the next in the schedule, or none is left. -/
abbrev State.engineMoves (s : State) : Prop := s.sched = [] ∨ ∃ rest, s.sched = .engine :: rest

/-- The turn is a CLEAR or the assertion of rst. -/
abbrev State.clearMoves (s : State) : Prop :=
  ∃ e rest, s.sched = e :: rest ∧ (e.isClear = true ∨ e = .rst true)

/-- The turn is a START, as a command or as a CTRL write (R74). -/
abbrev State.startMoves (s : State) : Prop :=
  ∃ (d : Word32) (rest : List Event), d[1] = false ∧ d[0] = true ∧
    (s.sched = .command d :: rest ∨ s.sched = .bus (.write 0x004 .four d) :: rest)

/-- The effects of a step: the turn that has each, and the fields it changes at most. The values
given are those that the rules about OUT, LEN and the STATUS bits speak of. -/
inductive StepEffect (s : State) : State → Prop
  /-- A read, a bus error, SETIE, the release of rst, IDLE, or a turn that reset swallows. -/
  | quiet {ie rst resp sched} :
      StepEffect s { s with ie := ie, rst := rst, resp := resp, sched := sched }
  | pad {tail n c upc sched} (hu : s.upc = 0x01) (hm : s.engineMoves) :
      StepEffect s { s with tail := tail, n := n, t := c, upc := upc, sched := sched }
  | init {acc nb blk ch po r upc sched} (hu : s.upc = 0x02) (hm : s.engineMoves) :
      StepEffect s { s with
        acc := acc, nb := nb, blk := blk, ch := ch, po := po, r := r, upc := upc, sched := sched }
  | capt {pre upc sched} (hu : s.upc = 0x04) (hm : s.engineMoves) :
      StepEffect s { s with pre := pre, upc := upc, sched := sched }
  /-- MIX, and ALPHA to ADD. -/
  | stage {acc q blk ch po r upc sched} (hu : 3 ≤ s.upc.toNat ∧ s.upc.toNat ≤ 0x0B ∧ s.upc ≠ 0x04)
      (hm : s.engineMoves) :
      StepEffect s { s with
        acc := acc, q := q, blk := blk, ch := ch, po := po, r := r, upc := upc, sched := sched }
  | finish {sched} (hu : s.upc = 0x0C) (hm : s.engineMoves) :
      StepEffect s { s with out := s.acc, busy := false, done := true, upc := 0x00, sched := sched }
  | clear {ie resp sched} (hm : s.clearMoves) :
      StepEffect s { s.clearCommand with ie := ie, resp := resp, sched := sched }
  | reset {rest} (hs : s.sched = .rst true :: rest) :
      StepEffect s { s.resetRegisters with rst := true, sched := rest }
  | startDropped {ie resp sched} (hm : s.startMoves) (hb : s.busy = true) :
      StepEffect s { s with ie := ie, werr := true, resp := resp, sched := sched }
  | startRefused {ie cause resp sched} (hm : s.startMoves) (hb : s.busy = false)
      (hl : s.len.toNat = 0 ∨ Config.msgCap < s.len.toNat) :
      StepEffect s { s with
        ie := ie, done := false, err := true, werr := false, cause := cause, resp := resp
        sched := sched }
  | startAccepted {ie n nt upc resp sched} (hm : s.startMoves) (hb : s.busy = false)
      (hl : 1 ≤ s.len.toNat ∧ s.len.toNat ≤ Config.msgCap) :
      StepEffect s { s with
        ie := ie, busy := true, done := false, err := false, werr := false, cause := 0, n := n
        t := 0, nt := nt, upc := upc, resp := resp, sched := sched }
  | statusWrite {d rest cause resp} (hs : s.sched = .bus (.write 0x008 .four d) :: rest) :
      StepEffect s { s with
        done := s.done && !d[1], err := s.err && !d[2], werr := s.werr && !d[3], cause := cause
        resp := resp, sched := rest }
  | lenWrite {d rest resp} (hs : s.sched = .bus (.write 0x010 .four d) :: rest)
      (hb : s.busy = false) :
      StepEffect s { s with len := d, resp := resp, sched := rest }
  | msgWrite {a n d rest msg resp} (hs : s.sched = .bus (.write a n d) :: rest)
      (ha : 0x1000 ≤ a.toNat) (hb : s.busy = false) :
      StepEffect s { s with msg := msg, resp := resp, sched := rest }
  | writeDropped {a n d rest resp} (hs : s.sched = .bus (.write a n d) :: rest)
      (ha : a = 0x010 ∨ 0x1000 ≤ a.toNat) (hb : s.busy = true) :
      StepEffect s { s with werr := true, resp := resp, sched := rest }

theorem engineTurn_effect {s t : State} {l : List Event} (hm : s.engineMoves)
    (h : engineTurn { s with sched := l } = .next t) : StepEffect s t := by
  obtain e | ⟨hu, e⟩ | ⟨hu, e⟩ | ⟨hu, e⟩ | ⟨hu, e⟩ | ⟨hu, e⟩ := engineTurn_cases h <;> rw [e]
  · exact .quiet
  · exact .pad hu hm
  · exact .init hu hm
  · exact .capt hu hm
  · exact .stage hu hm
  · exact .finish hu hm

/-- The effects of a CTRL write, and of the command turn of the same data (R103). -/
theorem ctrlWrite_effect {s : State} {d : Word32} {rest : List Event}
    (hs : s.sched = .command d :: rest ∨ s.sched = .bus (.write 0x004 .four d) :: rest) :
    StepEffect s ((State.ctrlWrite { s with sched := rest } d).answer .writeDone) := by
  obtain ⟨h1, e⟩ | ⟨h1, h0, hb, e⟩ | ⟨h1, h0, hb, hl, c, e⟩ | ⟨h1, h0, hb, hl, hcap, e⟩ |
    ⟨-, -, e⟩ := State.ctrlWrite_outcomes { s with sched := rest } d <;> rw [e]
  · refine .clear ?_
    obtain hs | hs := hs <;> exact ⟨_, rest, hs, .inl (by simp [Event.isClear, h1])⟩
  · exact .startDropped ⟨d, rest, h1, h0, hs⟩ hb
  · exact .startRefused ⟨d, rest, h1, h0, hs⟩ hb hl
  · exact .startAccepted ⟨d, rest, h1, h0, hs⟩ hb ⟨hl, hcap⟩
  · exact .quiet

theorem hostTurn_effect {s t : State} {e : Encoding} {rest : List Event} (he : ∀ op, e ≠ .micro op)
    (hs : s.sched = eventOf e :: rest) (h : hostTurn e { s with sched := rest } = .next t) :
    StepEffect s t := by
  obtain ⟨-, rfl⟩ | ⟨r, rfl⟩ | ⟨d, hd, rfl⟩ | ⟨d, rfl, rfl⟩ | ⟨d, rfl, rfl⟩ |
    ⟨a, n, d, rfl, ha, -, -, rfl⟩ := hostTurn_cases he h
  · exact .quiet
  · exact .quiet
  · exact ctrlWrite_effect (hd.imp (by rintro rfl; exact hs) (by rintro rfl; exact hs))
  · rw [State.statusWrite_eq]
    exact .statusWrite hs
  · obtain ⟨hb, e⟩ | ⟨hb, e⟩ := State.lenWrite_cases { s with sched := rest } d <;> rw [e]
    · exact .writeDropped hs (.inl rfl) hb
    · exact .lenWrite hs hb
  · obtain ⟨hb, e⟩ | ⟨hb, e⟩ :=
      State.msgWrite_cases { s with sched := rest } (a.toNat - 0x1000) n d <;> rw [e]
    · exact .writeDropped hs (.inr ha) hb
    · exact .msgWrite hs ha hb

/-- Everything a step can do. -/
theorem step_effect {s t : State} (h : step s = .next t) : StepEffect s t := by
  obtain ⟨hs, h⟩ | ⟨rest, hs, h⟩ | ⟨d, rest, hs, h⟩ | ⟨x, rest, hs, h⟩ | ⟨rest, hs, rfl⟩ |
    ⟨rest, -, rfl⟩ := step_cases h
  · exact engineTurn_effect (l := s.sched) (.inl hs) h
  · exact engineTurn_effect (.inr ⟨rest, hs⟩) h
  · exact hostTurn_effect (e := .command d) (by simp) hs h
  · exact hostTurn_effect (e := .bus x) (by simp) hs h
  · exact .reset hs
  · exact .quiet

/-- The assertion of rst is one of the turns that clear. -/
theorem State.clearMoves_of_reset {s : State} {rest : List Event}
    (hs : s.sched = .rst true :: rest) : s.clearMoves :=
  ⟨_, rest, hs, .inr rfl⟩

/-- Settles O44: of all effects, only FINISH, CLEAR and reset name OUT. -/
theorem outChangesOnlyAtFinishClearReset : Obligations.OutChangesOnlyAtFinishClearReset := by
  intro s t h hne
  cases step_effect h with
  | finish hu hm => exact .inl ⟨hu, hm⟩
  | clear hm => exact .inr hm
  | reset hs => exact .inr (State.clearMoves_of_reset hs)
  | _ => exact absurd rfl hne

/-- Settles O45: each register's clause lists the effects that name it. -/
theorem registersChangeOnlyAtTheirWriters : Obligations.RegistersChangeOnlyAtTheirWriters := by
  intro s t h
  refine ⟨fun hne => ?len, fun hne => ?tail, fun hne => ?pre, fun hne => ?acc, fun hne => ?msg⟩ <;>
    cases step_effect h
  case len.lenWrite hs hb => exact .inl ⟨_, _, hs, hb, rfl⟩
  case len.reset hs => exact .inr ⟨_, hs⟩
  case tail.pad hu hm => exact .inl ⟨hu, hm⟩
  case tail.reset hs => exact .inr ⟨_, hs⟩
  case pre.capt hu hm => exact .inl ⟨hu, hm⟩
  case pre.clear hm => exact .inr hm
  case pre.reset hs => exact .inr (State.clearMoves_of_reset hs)
  case acc.init hu hm => exact .inl ⟨_, by decide, by decide, by decide, hu, hm⟩
  case acc.stage hu hm => exact .inl ⟨s.upc, le_trans (by decide) hu.1, hu.2.1, hu.2.2, rfl, hm⟩
  case acc.clear hm => exact .inr hm
  case acc.reset hs => exact .inr (State.clearMoves_of_reset hs)
  case msg.msgWrite hs ha hb => exact .inl ⟨_, _, _, _, hs, ha, hb⟩
  case msg.reset hs => exact .inr ⟨_, hs⟩
  all_goals exact absurd rfl hne

/-- Settles O46: each bit's two clauses list the effects that set it and those that clear it. -/
theorem statusBitsChangeAsTheTableSays : Obligations.StatusBitsChangeAsTheTableSays := by
  intro s t h
  refine ⟨fun h0 h1 => ?busyRises, fun h0 h1 => ?busyFalls, fun h0 h1 => ?doneRises,
    fun h0 h1 => ?doneFalls, fun h0 h1 => ?errRises, fun h0 h1 => ?errFalls,
    fun h0 h1 => ?werrRises, fun h0 h1 => ?werrFalls⟩ <;> cases step_effect h
  case busyRises.startAccepted hm hb hl => exact ⟨hm, hl⟩
  case busyFalls.finish hu hm => exact .inl ⟨hu, hm⟩
  case busyFalls.clear hm => exact .inr hm
  case busyFalls.reset hs => exact .inr (State.clearMoves_of_reset hs)
  case doneRises.finish hu hm => exact ⟨hu, hm⟩
  case doneFalls.startRefused hm hb hl => exact .inl hm
  case doneFalls.startAccepted hm hb hl => exact .inl hm
  case doneFalls.statusWrite hs => exact .inr (.inl ⟨_, _, hs, by simpa [h0] using h1⟩)
  case doneFalls.clear hm => exact .inr (.inr hm)
  case doneFalls.reset hs => exact .inr (.inr (State.clearMoves_of_reset hs))
  case errRises.startRefused hm hb hl => exact ⟨hm, hl⟩
  case errFalls.startAccepted hm hb hl => exact .inl hm
  case errFalls.statusWrite hs => exact .inr (.inl ⟨_, _, hs, by simpa [h0] using h1⟩)
  case errFalls.clear hm => exact .inr (.inr hm)
  case errFalls.reset hs => exact .inr (.inr (State.clearMoves_of_reset hs))
  case werrRises.startDropped hm hb => exact ⟨hb, .inl hm⟩
  case werrRises.writeDropped hs ha hb => exact ⟨hb, .inr ⟨_, _, _, _, hs, ha⟩⟩
  case werrFalls.startRefused hm hb hl => exact .inl ⟨hm, hb⟩
  case werrFalls.startAccepted hm hb hl => exact .inl ⟨hm, hb⟩
  case werrFalls.statusWrite hs => exact .inr (.inl ⟨_, _, hs, by simpa [h0] using h1⟩)
  case werrFalls.clear hm => exact .inr (.inr hm)
  case werrFalls.reset hs => exact .inr (.inr (State.clearMoves_of_reset hs))
  all_goals simp [h0] at h1

end Sys2Proof.Machine
end

section
/-! PROOFS, family 20_memory.md. The message memory and the bus: what a step does to MSG (R53), a read
of the bytes an earlier write stored (R61), reads without a side effect (R59), misaligned reads (R57),
and the running hash that no host turn but a CLEAR disturbs (R64). -/

namespace Sys2Proof.Machine

/-! ## What a step does to MSG (R53) -/

theorem State.ctrlWrite_msg (s : State) (d : Word32) : (s.ctrlWrite d).msg = s.msg := by
  obtain ⟨-, e⟩ | ⟨-, -, -, e⟩ | ⟨-, -, -, -, c, e⟩ | ⟨-, -, -, -, -, e⟩ | ⟨-, -, e⟩ :=
    s.ctrlWrite_outcomes d <;> rw [e] <;> rfl

theorem State.statusWrite_msg (s : State) (d : Word32) : (s.statusWrite d).msg = s.msg := by
  rw [State.statusWrite_eq]

theorem State.lenWrite_msg (s : State) (d : Word32) : (s.lenWrite d).msg = s.msg := by
  obtain ⟨-, e⟩ | ⟨-, e⟩ := s.lenWrite_cases d <;> rw [e]
  rfl

theorem engineTurn_msg {s t : State} (h : engineTurn s = .next t) : t.msg = s.msg := by
  obtain e | ⟨-, e⟩ | ⟨-, e⟩ | ⟨-, e⟩ | ⟨-, e⟩ | ⟨-, e⟩ := engineTurn_cases h <;> rw [e]

/-- A turn of the host leaves MSG alone, or stores the bytes of one write. -/
theorem hostTurn_msg {e : Encoding} {s t : State} (he : ∀ op, e ≠ .micro op)
    (h : hostTurn e s = .next t) :
    t.msg = s.msg ∨ ∃ i d n, t.msg = s.msg.writeBytes i d n := by
  obtain ⟨-, rfl⟩ | ⟨r, rfl⟩ | ⟨d, -, rfl⟩ | ⟨d, -, rfl⟩ | ⟨d, -, rfl⟩ | ⟨a, n, d, -, -, -, -, rfl⟩ :=
    hostTurn_cases he h
  · exact .inl rfl
  · exact .inl rfl
  · exact .inl (s.ctrlWrite_msg d)
  · exact .inl (s.statusWrite_msg d)
  · exact .inl (s.lenWrite_msg d)
  · obtain ⟨-, e⟩ | ⟨-, e⟩ := s.msgWrite_cases (a.toNat - 0x1000) n d <;> rw [e]
    · exact .inl rfl
    · exact .inr ⟨_, _, _, rfl⟩

/-- A step leaves MSG alone, stores the bytes of one write, or draws new reset contents (R53). -/
theorem step_msg {s t : State} (h : step s = .next t) :
    t.msg = s.msg ∨ (∃ i d n, t.msg = s.msg.writeBytes i d n) ∨ ∃ draw, t.msg = ⟨draw, []⟩ := by
  obtain ⟨-, h⟩ | ⟨rest, -, h⟩ | ⟨d, rest, -, h⟩ | ⟨x, rest, -, h⟩ | ⟨rest, -, rfl⟩ |
    ⟨rest, -, rfl⟩ := step_cases h
  · exact .inl (engineTurn_msg h)
  · exact .inl (engineTurn_msg (s := { s with sched := rest }) h)
  · exact (hostTurn_msg (by simp) h).imp_right .inl
  · exact (hostTurn_msg (by simp) h).imp_right .inl
  · exact .inr (.inr ⟨_, rfl⟩)
  · exact .inl rfl

/-- Settles O16: the bytes of a write keep the form, and new reset contents list no byte. -/
theorem stepKeepsTheMemoryForm : Obligations.StepKeepsTheMemoryForm := by
  intro s t hwf h
  obtain e | ⟨i, d, n, e⟩ | ⟨draw, e⟩ := step_msg h <;> rw [e]
  · exact hwf
  · exact Memory.writeBytes_wf hwf i d n
  · exact Memory.wf_nil draw

/-! ## A read inside the bytes of an earlier write (R61) -/

/-- The base-256 digits below place `w` add up to the value below it. -/
theorem byteSum_eq_mod (x w : Nat) :
    ((List.range w).map fun k => x / 2 ^ (8 * k) % 256 * 2 ^ (8 * k)).sum = x % 2 ^ (8 * w) := by
  simp only [pow_mul, show 2 ^ 8 = 256 from rfl]
  induction w with
  | zero => simp [Nat.mod_one]
  | succ w ih => simp [List.range_succ, ih, Nat.mod_pow_succ, Nat.mul_comm (256 ^ w)]

/-- Bytes taken from place `off` of a value assemble to that part of the value (R54, R55). -/
theorem assemble_toNat_of_bytes {f : Nat → Byte} {v : Word32} {off : Nat} {n : Size}
    (h : ∀ k < bytesOf n, f k = byteOf v (off + k)) :
    (assemble f n).toNat = v.toNat / 2 ^ (8 * off) % 2 ^ (8 * bytesOf n) := by
  have digit : ∀ k ∈ List.range (bytesOf n), (f k).toNat * 2 ^ (8 * k) =
      v.toNat / 2 ^ (8 * off) / 2 ^ (8 * k) % 256 * 2 ^ (8 * k) := by
    intro k hk
    rw [h k (List.mem_range.1 hk), byteOf_toNat, Nat.mul_add, pow_add, Nat.div_div_eq_div_mul]
  rw [assemble_toNat, List.map_congr_left digit, byteSum_eq_mod]

/-- An access of `n` bytes at `a` that R106 takes: aligned, and all its bytes in MSG. -/
structure MsgAccess (a : Word32) (n : Size) : Prop where
  aligned : a.toNat % bytesOf n = 0
  base_le : 0x1000 ≤ a.toNat
  end_le : a.toNat + bytesOf n ≤ 0x1000 + Config.msgCap

theorem MsgAccess.aligned_eq {a : Word32} {n : Size} (h : MsgAccess a n) :
    Machine.aligned a.toNat n = true := by
  simp [Machine.aligned, h.aligned]

theorem MsgAccess.itemOf_eq {a : Word32} {n : Size} (h : MsgAccess a n) :
    itemOf a.toNat n = some .msg := by
  rw [itemOf_msg h.base_le, if_pos h.end_le]

theorem MsgAccess.access_ok {a : Word32} {n : Size} (h : MsgAccess a n) :
    (Machine.aligned a.toNat n && inMsgWindow a.toNat n) = true := by
  have := h.base_le
  have := h.end_le
  simp [h.aligned_eq, inMsgWindow, msgBase]
  omega

/-- A write inside MSG is the MSG write at its index (R106). -/
theorem run_write_msg {a : Word32} {n : Size} (h : MsgAccess a n) (d : Word32) (s : State) :
    runEncoding (.bus (.write a n d)) s =
      .next ((s.msgWrite (a.toNat - 0x1000) n d).answer .writeDone) := by
  simp only [runEncoding, decode, decodeBus, h.aligned_eq, h.itemOf_eq, if_true, decodeWrite]
  exact if_pos h.access_ok

/-- A read inside MSG answers the bytes from its index (R107). -/
theorem run_read_msg {a : Word32} {n : Size} (h : MsgAccess a n) (s : State) :
    runEncoding (.bus (.read a n)) s =
      .next (s.answer (.readData (assemble (fun k => s.msg.read (a.toNat - 0x1000 + k)) n))) := by
  simp only [runEncoding, decode, decodeBus, h.aligned_eq, h.itemOf_eq, if_true, decodeRead]
  exact if_pos h.access_ok

/-- A run of two steps. -/
theorem run_two {s u t : State} (first : step s = .next u) (second : step u = .next t) :
    Sys2Proof.core.run 2 s = .next t :=
  (run_succ 1 first).trans (run_succ 0 second)

/-- Settles O25: each byte read is the written data's byte at the same address, and the bytes from a
place of the data assemble to that part of it. -/
theorem msgReadReturnsTheBytesWritten : Obligations.MsgReadReturnsTheBytesWritten := by
  intro s a a' n n' d rest hwf hrst hbusy hal hlo hhi hal' hle hend hs
  have write : MsgAccess a n := ⟨hal, hlo, hhi⟩
  have read : MsgAccess a' n' := ⟨hal', hlo.trans hle, hend.trans hhi⟩
  have first : step s = .next { s with
      msg := s.msg.writeBytes (a.toNat - 0x1000) d n, resp := some .writeDone
      sched := .bus (.read a' n') :: rest } := by
    rw [step_bus hrst hs, run_write_msg write, State.msgWrite, if_neg (by simp [hbusy])]
    rfl
  refine ⟨_, _, run_two first (.trans (step_bus hrst rfl) (run_read_msg read _)), rfl,
    assemble_toNat_of_bytes fun k hk => ?_, rfl⟩
  rw [Memory.read_writeBytes hwf, if_pos (by omega)]
  exact congrArg (byteOf d) (by omega)

/-! ## Reads without a side effect (R59) -/

theorem State.LooksLike.refl (s : State) : s.LooksLike s :=
  ⟨rfl, rfl, rfl, rfl, rfl, rfl, rfl, rfl, rfl⟩

/-- One answer serves every state that looks like `s`. -/
theorem run_read_answer (s : State) (a : Word32) (n : Size) :
    ∃ r, ∀ s', s.LooksLike s' → runEncoding (.bus (.read a n)) s' = .next (s'.answer r) := by
  obtain ⟨r, e, -⟩ := run_read_alike (State.LooksLike.refl s) a n
  refine ⟨r, fun s' h => ?_⟩
  obtain ⟨r', e', h'⟩ := run_read_alike h a n
  have same : s.answer r' = s.answer r := Host.Outcome.next.inj (e'.symm.trans e)
  obtain rfl : r' = r := Option.some.inj (congrArg State.resp same)
  exact h'

/-- Settles O30: the first read changes nothing the second one sees, so one answer serves both. -/
theorem hostReadsHaveNoSideEffect : Obligations.HostReadsHaveNoSideEffect := by
  intro s a n rest hrst hs
  obtain ⟨r, hr⟩ := run_read_answer s a n
  have looks : ∀ resp sched, s.LooksLike { s with resp := resp, sched := sched } :=
    fun _ _ => ⟨rfl, rfl, rfl, rfl, rfl, rfl, rfl, rfl, rfl⟩
  have first : step s = .next { s with resp := some r, sched := .bus (.read a n) :: rest } :=
    (step_bus hrst hs).trans (hr _ (looks ..))
  exact ⟨r, first, run_two first (.trans (step_bus hrst rfl) (hr _ (looks ..)))⟩

/-! ## The running hash (R64) -/

/-- Settles O49: of all effects, those that need an idle engine, the engine's turn, a CLEAR or a reset
are excluded, and the others name no field that the engine reads, nor BUSY or OUT. -/
theorem runningHashIsUndisturbed : Obligations.RunningHashIsUndisturbed := by
  intro s t e rest hbusy hs hengine hclear hreset h
  have notEngine : ¬ s.engineMoves := by simp [State.engineMoves, hs, hengine]
  have notClear : ¬ s.clearMoves := by
    rintro ⟨e', rest', hs', he'⟩
    obtain ⟨rfl, -⟩ := List.cons.inj (hs.symm.trans hs')
    obtain he' | rfl := he'
    · simp [hclear] at he'
    · simp [Event.isReset] at hreset
  have notIdle : s.busy ≠ false := by simp [hbusy]
  cases step_effect h with
  | quiet => exact ⟨rfl, hbusy, rfl⟩
  | startDropped => exact ⟨rfl, hbusy, rfl⟩
  | statusWrite => exact ⟨rfl, hbusy, rfl⟩
  | writeDropped => exact ⟨rfl, hbusy, rfl⟩
  | pad hu hm => exact absurd hm notEngine
  | init hu hm => exact absurd hm notEngine
  | capt hu hm => exact absurd hm notEngine
  | stage hu hm => exact absurd hm notEngine
  | finish hu hm => exact absurd hm notEngine
  | clear hm => exact absurd hm notClear
  | reset hs => exact absurd (State.clearMoves_of_reset hs) notClear
  | startRefused hm hb => exact absurd hb notIdle
  | startAccepted hm hb => exact absurd hb notIdle
  | lenWrite hs hb => exact absurd hb notIdle
  | msgWrite hs ha hb => exact absurd hb notIdle

/-! ## Misaligned reads (R57) -/

theorem not_aligned {a : Nat} {n : Size} (h : a % bytesOf n ≠ 0) : ¬ aligned a n = true := by
  simp [aligned, h]

theorem readRegister_misaligned {off : BitVec 2} {n : Size} (h : off.toNat % bytesOf n ≠ 0)
    (i : Item) (v : Word32) (s : State) :
    readRegister i v off n s = { s with resp := some (.readError 0) } :=
  if_neg (not_aligned h)

theorem readDigest_misaligned {off : BitVec 6} {n : Size} (h : off.toNat % bytesOf n ≠ 0)
    (b : Base) (s : State) :
    readDigest b off n s = { s with resp := some (.readError 0) } :=
  if_neg (not_aligned h)

/-- Settles O29: every one of the sixteen reads is a read of a register or of a digest window. -/
theorem misalignedReadsAreBusErrors : Obligations.MisalignedReadsAreBusErrors := by
  intro s n
  constructor <;> intro off h i hi <;>
    simp only [List.mem_cons, List.not_mem_nil, or_false] at hi
  · obtain rfl | rfl | rfl | rfl | rfl | rfl | rfl | rfl := hi <;>
      exact congrArg _ (readRegister_misaligned h _ _ s)
  · obtain rfl | rfl | rfl | rfl | rfl | rfl | rfl | rfl := hi <;>
      exact congrArg _ (readDigest_misaligned h _ s)

end Sys2Proof.Machine
end

section
/-! PROOFS, family 30_encoding.md, the encodings. Decoder and encoder agree both ways (R70 to R75),
and the address table of the bus (R75, R78). A read of the register region is the item's base and an
offset into it; what the sixteen read rows of the table share is said once, as `ReadRow`. -/

namespace Sys2Proof.Machine

/-! ## Addresses of the register region (R20) -/

/-- The address of byte `off` of an item. -/
def itemAddr {w : Nat} (i : Item) (off : BitVec w) : Word32 :=
  BitVec.ofNat 32 (itemBase i + off.toNat)

theorem encodeRead_eq {w : Nat} (i : Item) (off : BitVec w) (n : Size) :
    encodeRead i off n = .bus (.read (itemAddr i off) n) := rfl

theorem itemAddr_eq_add {w : Nat} (i : Item) (off : BitVec w) :
    itemAddr i off = BitVec.ofNat 32 (itemBase i) + off.setWidth 32 := by
  rw [itemAddr, BitVec.ofNat_add, BitVec.ofNat_toNat]

theorem itemBytes_le (i : Item) : itemBytes i ≤ 64 := by
  cases i <;> simp [itemBytes]

/-- Every access size divides the base of every item. -/
theorem itemBase_mod_bytesOf (i : Item) (n : Size) : itemBase i % bytesOf n = 0 := by
  cases i with
  | digest b => cases b <;> cases n <;> rfl
  | _ => cases n <;> rfl

section Offset

variable {i : Item} {w : Nat} (hw : itemBytes i = 2 ^ w)
include hw

theorem itemAddr_toNat (off : BitVec w) : (itemAddr i off).toNat = itemBase i + off.toNat := by
  have := off.isLt
  have := itemBytes_le i
  have := (itemBase_le i).1
  rw [itemAddr, BitVec.toNat_ofNat, Nat.mod_eq_of_lt (by omega)]

/-- The low bits of an address inside an item are the byte's place in it. -/
theorem itemAddr_setWidth (off : BitVec w) : (itemAddr i off).setWidth w = off := by
  apply BitVec.eq_of_toNat_eq
  have hbase := itemBase_mod i
  rw [hw] at hbase
  rw [BitVec.toNat_setWidth, itemAddr_toNat hw, Nat.add_mod, hbase, Nat.zero_add, Nat.mod_mod,
    Nat.mod_eq_of_lt off.isLt]

theorem aligned_itemAddr (off : BitVec w) (n : Size) :
    aligned (itemAddr i off).toNat n = aligned off.toNat n := by
  rw [itemAddr_toNat hw, aligned, aligned, Nat.add_mod, itemBase_mod_bytesOf, Nat.zero_add,
    Nat.mod_mod]

theorem itemOf_itemAddr (hi : i ≠ .msg) (off : BitVec w) (n : Size) :
    itemOf (itemAddr i off).toNat n = some i := by
  have hoff : off.toNat < itemBytes i := hw ▸ off.isLt
  have := itemBytes_le i
  have := (itemBase_le i).2 hi
  rw [itemAddr_toNat hw, itemOf_register (by omega), registerItem_of_item i hi _ hoff]

/-- An address among an item's bytes is one of its offsets. -/
theorem exists_eq_itemAddr {a : Word32} (ha : registerItem a.toNat = some i) :
    ∃ off : BitVec w, a = itemAddr i off := by
  obtain ⟨-, hlo, hhi⟩ := registerItem_bounds ha
  refine ⟨BitVec.ofNat w (a.toNat - itemBase i), BitVec.eq_of_toNat_eq ?_⟩
  rw [itemAddr_toNat hw, BitVec.toNat_ofNat, Nat.mod_eq_of_lt (by omega)]
  omega

end Offset

/-! ## The read rows (R75) -/

/-- `mk` is the read of register item `i`, whose offset has `w` bits: how it is decoded, checked and
encoded. -/
structure ReadRow (i : Item) {w : Nat} (mk : BitVec w → Size → Instr) : Prop where
  register : i ≠ .msg := by decide
  bytes : itemBytes i = 2 ^ w := by rfl
  decoded : ∀ a n, decodeRead a n i = mk (a.setWidth w) n := by exact fun _ _ => rfl
  checked : ∀ off n, (mk off n).wf = aligned off.toNat n := by exact fun _ _ => rfl
  encoded : ∀ off n, encode (mk off n) = encodeRead i off n := by exact fun _ _ => rfl

/-- Every item of the register region has its read row. -/
theorem exists_readRow {i : Item} (hi : i ≠ .msg) :
    ∃ (w : Nat) (mk : BitVec w → Size → Instr), ReadRow i mk := by
  cases i with
  | id => exact ⟨2, .rdId, {}⟩
  | ctrl => exact ⟨2, .rdCtrl, {}⟩
  | status => exact ⟨2, .rdStatus, {}⟩
  | cause => exact ⟨2, .rdCause, {}⟩
  | len => exact ⟨2, .rdLen, {}⟩
  | cap => exact ⟨2, .rdCap, {}⟩
  | out01 => exact ⟨2, .rdOut01, {}⟩
  | out23 => exact ⟨2, .rdOut23, {}⟩
  | digest b =>
    cases b with
    | b60 => exact ⟨6, .rdD60, {}⟩
    | b20 => exact ⟨6, .rdD20, {}⟩
    | b16 => exact ⟨6, .rdD16, {}⟩
    | b14 => exact ⟨6, .rdD14, {}⟩
    | b12 => exact ⟨6, .rdD12, {}⟩
    | b8 => exact ⟨6, .rdD8, {}⟩
    | b6 => exact ⟨6, .rdD6, {}⟩
    | b2 => exact ⟨6, .rdD2, {}⟩
  | msg => exact absurd rfl hi

section Rows

variable {i : Item} {w : Nat} {mk : BitVec w → Size → Instr} (row : ReadRow i mk)
include row

/-- An aligned read at offset `off` of an item decodes to its row. -/
theorem ReadRow.decode_read {off : BitVec w} {n : Size} (h : aligned off.toNat n = true) :
    decode (.bus (.read (itemAddr i off) n)) = .ok (mk off n) := by
  simp only [decode, decodeBus, aligned_itemAddr row.bytes, h, if_true,
    itemOf_itemAddr row.bytes row.register, row.decoded, itemAddr_setWidth row.bytes]

theorem ReadRow.decode_encode {off : BitVec w} {n : Size} (h : WellFormed (mk off n)) :
    decode (encode (mk off n)) = .ok (mk off n) := by
  rw [row.encoded, encodeRead_eq]
  exact row.decode_read (by rwa [WellFormed, row.checked] at h)

/-- The row in the form of R75's table: base plus offset. -/
theorem ReadRow.decode_base_add {off : BitVec w} {n : Size} (h : off.toNat % bytesOf n = 0) :
    decode (.bus (.read (BitVec.ofNat 32 (itemBase i) + off.setWidth 32) n)) = .ok (mk off n) := by
  rw [← itemAddr_eq_add]
  exact row.decode_read (by simp [aligned, h])

/-- An aligned read among an item's bytes is well formed, and encodes back. -/
theorem ReadRow.encode_decodeRead {a : Word32} {n : Size} (ha : aligned a.toNat n = true)
    (hi : registerItem a.toNat = some i) :
    WellFormed (decodeRead a n i) ∧ encode (decodeRead a n i) = .bus (.read a n) := by
  obtain ⟨off, rfl⟩ := exists_eq_itemAddr row.bytes hi
  rw [aligned_itemAddr row.bytes] at ha
  rw [row.decoded, itemAddr_setWidth row.bytes, row.encoded, encodeRead_eq, WellFormed, row.checked]
  exact ⟨ha, rfl⟩

end Rows

/-! ## The MSG rows (R106, R107) -/

theorem msgAccess_iff {a : Word32} {n : Size} :
    (aligned a.toNat n && inMsgWindow a.toNat n) = true ↔ MsgAccess a n := by
  refine ⟨fun h => ?_, MsgAccess.access_ok⟩
  simp only [aligned, inMsgWindow, msgBase, Bool.and_eq_true, beq_iff_eq, decide_eq_true_eq] at h
  obtain ⟨hal, hlo, hhi⟩ := h
  exact ⟨hal, hlo, by omega⟩

theorem msgAccess_of_itemOf {a : Word32} {n : Size} (ha : aligned a.toNat n = true)
    (hlo : 0x1000 ≤ a.toNat) {i : Item} (hi : itemOf a.toNat n = some i) :
    i = .msg ∧ MsgAccess a n := by
  rw [itemOf_msg hlo] at hi
  split at hi
  · cases hi
    exact ⟨rfl, by simpa [aligned] using ha, hlo, ‹_›⟩
  · cases hi

theorem MsgAccess.decode_read {a : Word32} {n : Size} (h : MsgAccess a n) :
    decode (.bus (.read a n)) = .ok (.rdMsg a n) := by
  simp only [decode, decodeBus, h.aligned_eq, h.itemOf_eq, if_true, decodeRead]

theorem MsgAccess.decode_write {a : Word32} {n : Size} (h : MsgAccess a n) (d : Word32) :
    decode (.bus (.write a n d)) = .ok (.wrMsg a n d) := by
  simp only [decode, decodeBus, h.aligned_eq, h.itemOf_eq, if_true, decodeWrite]

/-! ## Legal and illegal transactions (R78) -/

/-- What takes a write: MSG, and three registers at size 4 (R58). -/
theorem writableItem_iff {i : Item} {n : Size} :
    writableItem i n = true ↔
      i = .msg ∨ (n = .four ∧ (i = .ctrl ∨ i = .status ∨ i = .len)) := by
  cases i <;> cases n <;> simp [writableItem]

theorem decodeWrite_not_writable {i : Item} {n : Size} (h : writableItem i n = false)
    (a d : Word32) : decodeWrite a n d i = .busErr (.write a n d) := by
  revert h
  cases i <;> cases n <;> simp [writableItem, decodeWrite]

/-- What a transaction decodes to: BUS_ERR where it is illegal, else the row of its item. -/
theorem decodeBus_cases (t : Transaction) :
    (legal t = false ∧ decodeBus t = .busErr t) ∨
    (legal t = true ∧ ∃ a n i, t = .read a n ∧ aligned a.toNat n = true ∧
      itemOf a.toNat n = some i ∧ decodeBus t = decodeRead a n i) ∨
    (legal t = true ∧ ∃ a n d i, t = .write a n d ∧ aligned a.toNat n = true ∧
      itemOf a.toNat n = some i ∧ writableItem i n = true ∧ decodeBus t = decodeWrite a n d i) := by
  cases t with
  | read a n =>
    cases ha : aligned a.toNat n with
    | false => exact .inl (by simp [legal, decodeBus, ha])
    | true =>
      cases hi : itemOf a.toNat n with
      | none => exact .inl (by simp [legal, decodeBus, ha, hi])
      | some i =>
        exact .inr (.inl ⟨by simp [legal, ha, hi], a, n, i, rfl, ha, hi,
          by simp [decodeBus, ha, hi]⟩)
  | write a n d =>
    cases ha : aligned a.toNat n with
    | false => exact .inl (by simp [legal, decodeBus, ha])
    | true =>
      cases hi : itemOf a.toNat n with
      | none => exact .inl (by simp [legal, decodeBus, ha, hi])
      | some i =>
        cases hwr : writableItem i n with
        | false =>
          exact .inl (by simp [legal, decodeBus, ha, hi, hwr, decodeWrite_not_writable hwr])
        | true =>
          exact .inr (.inr ⟨by simp [legal, ha, hi, hwr], a, n, d, i, rfl, ha, hi, hwr,
            by simp [decodeBus, ha, hi]⟩)

theorem wellFormed_busErr_iff {t : Transaction} : WellFormed (.busErr t) ↔ legal t = false := by
  simp [WellFormed, Instr.wf]

theorem decodeBus_illegal {t : Transaction} (h : legal t = false) : decodeBus t = .busErr t := by
  obtain ⟨-, e⟩ | ⟨hl, -⟩ | ⟨hl, -⟩ := decodeBus_cases t
  · exact e
  · simp [h] at hl
  · simp [h] at hl

/-! ## The round trips -/

/-- Settles O1, by the instruction's format: a micro-op's code and a command's pattern are looked
up, a read is its row's, an MSG access and an illegal transaction are their own encodings. -/
theorem decodeOfEncodeIsTheInstruction : Obligations.DecodeOfEncodeIsTheInstruction := by
  intro i h
  cases i with
  | idle | pad | init | mix | capt | alpha | delta | theta | gamma | prime | shuf | add | finish =>
    rfl
  | setie d | start d | clear d =>
    simp only [WellFormed, Instr.wf, Bool.and_eq_true, Bool.not_eq_true'] at h
    simp [encode, decode, decodeCommand, h]
  | wrCtrl d | wrStatus d | wrLen d => rfl
  | rdId off n => exact ReadRow.decode_encode (i := .id) {} h
  | rdCtrl off n => exact ReadRow.decode_encode (i := .ctrl) {} h
  | rdStatus off n => exact ReadRow.decode_encode (i := .status) {} h
  | rdCause off n => exact ReadRow.decode_encode (i := .cause) {} h
  | rdLen off n => exact ReadRow.decode_encode (i := .len) {} h
  | rdCap off n => exact ReadRow.decode_encode (i := .cap) {} h
  | rdOut01 off n => exact ReadRow.decode_encode (i := .out01) {} h
  | rdOut23 off n => exact ReadRow.decode_encode (i := .out23) {} h
  | rdD60 off n => exact ReadRow.decode_encode (i := .digest .b60) {} h
  | rdD20 off n => exact ReadRow.decode_encode (i := .digest .b20) {} h
  | rdD16 off n => exact ReadRow.decode_encode (i := .digest .b16) {} h
  | rdD14 off n => exact ReadRow.decode_encode (i := .digest .b14) {} h
  | rdD12 off n => exact ReadRow.decode_encode (i := .digest .b12) {} h
  | rdD8 off n => exact ReadRow.decode_encode (i := .digest .b8) {} h
  | rdD6 off n => exact ReadRow.decode_encode (i := .digest .b6) {} h
  | rdD2 off n => exact ReadRow.decode_encode (i := .digest .b2) {} h
  | rdMsg a n => exact (msgAccess_iff.1 h).decode_read
  | wrMsg a n d => exact (msgAccess_iff.1 h).decode_write d
  | busErr t => exact congrArg Except.ok (decodeBus_illegal (wellFormed_busErr_iff.1 h))

/-- A legal read is well formed, and encodes back. -/
theorem encode_decodeRead {a : Word32} {n : Size} {i : Item} (ha : aligned a.toNat n = true)
    (hi : itemOf a.toNat n = some i) :
    WellFormed (decodeRead a n i) ∧ encode (decodeRead a n i) = .bus (.read a n) := by
  by_cases hlo : 0x1000 ≤ a.toNat
  · obtain ⟨rfl, h⟩ := msgAccess_of_itemOf ha hlo hi
    exact ⟨h.access_ok, rfl⟩
  · rw [itemOf_register (by omega)] at hi
    obtain ⟨w, mk, row⟩ := exists_readRow (registerItem_bounds hi).1
    exact row.encode_decodeRead ha hi

/-- A 4-byte write to a register is at its base. -/
theorem eq_itemBase_of_aligned {a : Word32} {i : Item} (hi : registerItem a.toNat = some i)
    (hb : itemBytes i = 4) (ha : aligned a.toNat .four = true) :
    a = BitVec.ofNat 32 (itemBase i) := by
  obtain ⟨-, hlo, hhi⟩ := registerItem_bounds hi
  have hbase := itemBase_mod_bytesOf i .four
  simp only [aligned, bytesOf, beq_iff_eq] at ha hbase
  refine BitVec.eq_of_toNat_eq ?_
  rw [BitVec.toNat_ofNat]
  omega

/-- A legal write is well formed, and encodes back. -/
theorem encode_decodeWrite {a : Word32} {n : Size} {d : Word32} {i : Item}
    (ha : aligned a.toNat n = true) (hi : itemOf a.toNat n = some i)
    (hwr : writableItem i n = true) :
    WellFormed (decodeWrite a n d i) ∧ encode (decodeWrite a n d i) = .bus (.write a n d) := by
  by_cases hlo : 0x1000 ≤ a.toNat
  · obtain ⟨rfl, h⟩ := msgAccess_of_itemOf ha hlo hi
    exact ⟨h.access_ok, rfl⟩
  · rw [itemOf_register (by omega)] at hi
    obtain rfl | ⟨rfl, rfl | rfl | rfl⟩ := writableItem_iff.1 hwr
    · exact absurd rfl (registerItem_bounds hi).1
    all_goals
      obtain rfl := eq_itemBase_of_aligned hi rfl ha
      exact ⟨rfl, rfl⟩

/-- Settles O2, by the place of the encoding; a transaction by what it decodes to. -/
theorem encodeOfDecodeIsTheEncoding : Obligations.EncodeOfDecodeIsTheEncoding := by
  intro e i h
  cases e with
  | micro op =>
    obtain ⟨rfl, rfl⟩ | ⟨rfl, rfl⟩ | ⟨rfl, rfl⟩ | ⟨rfl, rfl⟩ | ⟨rfl, rfl⟩ | ⟨rfl, rfl⟩ |
      ⟨rfl, rfl⟩ | ⟨rfl, rfl⟩ | ⟨rfl, rfl⟩ | ⟨rfl, rfl⟩ | ⟨rfl, rfl⟩ | ⟨rfl, rfl⟩ | ⟨rfl, rfl⟩ :=
      decodeMicro_cases h <;> exact ⟨rfl, rfl⟩
  | command d =>
    simp only [decode, decodeCommand] at h
    split_ifs at h with h1 h0 <;> cases h <;> exact ⟨by simp [WellFormed, Instr.wf, *], rfl⟩
  | bus t =>
    cases h
    obtain ⟨hl, e⟩ | ⟨-, a, n, i, rfl, ha, hi, e⟩ | ⟨-, a, n, d, i, rfl, ha, hi, hwr, e⟩ :=
      decodeBus_cases t <;> rw [e]
    · exact ⟨wellFormed_busErr_iff.2 hl, rfl⟩
    · exact encode_decodeRead ha hi
    · exact encode_decodeWrite ha hi hwr

/-! ## The address table (R75) -/

/-- BUS_ERR takes exactly the illegal transactions: the two round trips at that row. -/
theorem decode_eq_busErr_iff {t : Transaction} :
    decode (.bus t) = .ok (.busErr t) ↔ legal t = false := by
  rw [← wellFormed_busErr_iff]
  exact ⟨fun h => (encodeOfDecodeIsTheEncoding _ _ h).1, decodeOfEncodeIsTheInstruction _⟩

/-- No item holds the access: unmapped in the register region (R20), or past MSG (R52). -/
theorem itemOf_eq_none {a : Nat} {n : Size} :
    itemOf a n = none ↔
      (0x020 ≤ a ∧ a < 0x100) ∨ (0x300 ≤ a ∧ a < 0x1000) ∨
      (0x1000 ≤ a ∧ 0x1000 + Config.msgCap < a + bytesOf n) := by
  by_cases hlo : 0x1000 ≤ a
  · rw [itemOf_msg hlo]
    split <;> simp <;> omega
  · rw [itemOf_register (by omega), registerItem_none]
    omega

theorem itemBase_digest (b : Base) :
    0x100 ≤ itemBase (.digest b) ∧ itemBase (.digest b) ≤ 0x2C0 := by
  cases b <;> simp [itemBase]

/-- The addresses below MSG where a write of size `n` is refused: a read-only item, or a register
that takes 4-byte writes only (R58). -/
abbrev writeRefusedAt (a : Nat) (n : Size) : Prop :=
  a < 0x004 ∨ (0x00C ≤ a ∧ a < 0x010) ∨ (0x014 ≤ a ∧ a < 0x020) ∨ (0x100 ≤ a ∧ a < 0x300) ∨
  (n ≠ .four ∧ ((0x004 ≤ a ∧ a < 0x00C) ∨ (0x010 ≤ a ∧ a < 0x014)))

theorem writableItem_eq_false {a : Nat} {n : Size} {i : Item} (hi : itemOf a n = some i) :
    writableItem i n = false ↔ writeRefusedAt a n := by
  by_cases hlo : 0x1000 ≤ a
  · rw [itemOf_msg hlo] at hi
    split at hi <;> cases hi
    simp only [writableItem, reduceCtorEq, false_iff]
    omega
  · rw [itemOf_register (by omega)] at hi
    obtain ⟨hne, hbase, hend⟩ := registerItem_bounds hi
    rw [← Bool.not_eq_true, writableItem_iff]
    cases i with
    | msg => exact absurd rfl hne
    | digest b =>
      have := itemBase_digest b
      simp only [itemBytes] at hend
      simp only [reduceCtorEq, or_self, and_false, not_false_eq_true, true_iff]
      omega
    | ctrl | status | len =>
      simp only [itemBase, itemBytes] at hbase hend
      simp only [reduceCtorEq, or_true, true_or, or_self, and_true, false_or]
      by_cases hn : n = .four <;>
        simp only [writeRefusedAt, hn, ne_eq, not_true, not_false_eq_true, true_and, false_and,
          or_false, true_iff, false_iff] <;> omega
    | id | cause | cap | out01 | out23 =>
      simp only [itemBase, itemBytes] at hbase hend
      simp only [reduceCtorEq, or_self, and_false, not_false_eq_true, true_iff]
      omega

theorem legal_read_iff {a : Word32} {n : Size} :
    legal (.read a n) = false ↔ a.toNat % bytesOf n ≠ 0 ∨ itemOf a.toNat n = none := by
  simp only [legal, aligned, Bool.and_eq_false_iff, beq_eq_false_iff_ne, Option.isSome_eq_false_iff,
    Option.isNone_iff_eq_none]

theorem legal_write_iff {a : Word32} {n : Size} {d : Word32} :
    legal (.write a n d) = false ↔
      a.toNat % bytesOf n ≠ 0 ∨ itemOf a.toNat n = none ∨ writeRefusedAt a.toNat n := by
  simp only [legal, aligned, Bool.and_eq_false_iff, beq_eq_false_iff_ne]
  cases hi : itemOf a.toNat n with
  | none => simp
  | some i => simp only [writableItem_eq_false hi, reduceCtorEq, false_or]

/-- Settles O6: the reads by their rows, MSG by its window, and BUS_ERR by what is illegal. -/
theorem busTransactionsDecodeByTheTable : Obligations.BusTransactionsDecodeByTheTable := by
  refine ⟨fun off n h => ?registers, fun off n h => ?digests, fun d => ⟨rfl, rfl, rfl⟩,
    fun a n d hal hlo hhi => ?msg, fun a n => ?readErr, fun a n d => ?writeErr⟩
  case registers =>
    exact ⟨ReadRow.decode_base_add (i := .id) {} h, ReadRow.decode_base_add (i := .ctrl) {} h,
      ReadRow.decode_base_add (i := .status) {} h, ReadRow.decode_base_add (i := .cause) {} h,
      ReadRow.decode_base_add (i := .len) {} h, ReadRow.decode_base_add (i := .cap) {} h,
      ReadRow.decode_base_add (i := .out01) {} h, ReadRow.decode_base_add (i := .out23) {} h⟩
  case digests =>
    have row {b : Base} {mk : BitVec 6 → Size → Instr} (r : ReadRow (.digest b) mk) :=
      r.decode_base_add h
    exact ⟨row (b := .b60) {}, row (b := .b20) {}, row (b := .b16) {}, row (b := .b14) {},
      row (b := .b12) {}, row (b := .b8) {}, row (b := .b6) {}, row (b := .b2) {}⟩
  case msg =>
    have access : MsgAccess a n := ⟨hal, hlo, hhi⟩
    exact ⟨access.decode_read, access.decode_write d⟩
  case readErr => rw [decode_eq_busErr_iff, legal_read_iff, itemOf_eq_none]
  case writeErr =>
    rw [decode_eq_busErr_iff, legal_write_iff, itemOf_eq_none, or_assoc, or_assoc]

/-! ## Fixed words -/

/-- Settles O3, each word by the decoder's tables. -/
theorem sampleWordsDecode : Obligations.SampleWordsDecode :=
  ⟨rfl, rfl, rfl, rfl, rfl, rfl, rfl, rfl⟩

/-- Settles O4: the thirteen codes by the table, the others as reserved. -/
theorem microOpCodesDecode : Obligations.MicroOpCodesDecode := by
  have table : ∀ c : BitVec 5, c.toNat ≤ 0x0C →
      [Instr.idle, .pad, .init, .mix, .capt, .alpha, .delta, .theta, .gamma, .prime, .shuf, .add,
        .finish][c.toNat]? = (decode (.micro c)).toOption ∧
      (decode (.micro c)).toOption.isSome := by decide
  exact fun c => ⟨table c, decodeMicro_reserved⟩

end Sys2Proof.Machine
end

section
/-! PROOFS, family 30_encoding.md, the steps: whose instruction a turn runs (R70, R71), the
machine's two stops (R76, log 14), and what each micro-op writes (R80). -/

namespace Sys2Proof.Machine

/-! ## Whose instruction a turn runs (R70, R71) -/

theorem runEncoding_ok {e : Encoding} {i : Instr} (h : decode e = .ok i) (s : State) :
    runEncoding e s = exec i s := by
  rw [runEncoding, h]

theorem runEncoding_reserved {u : BitVec 5} (h : 0x0D ≤ u.toNat) (s : State) :
    runEncoding (.micro u) s = .refused (.reservedMicroOp u) := by
  rw [runEncoding, decode, decodeMicro_reserved h]

/-- With rst released, the turn that brings an encoding runs it; the engine's brings `upc`. -/
theorem takeTurn_eventOf {e : Encoding} {s : State} (hr : s.rst = false)
    (hu : ∀ op, e = .micro op → s.upc = op) : takeTurn (eventOf e) s = runEncoding e s := by
  cases e with
  | micro op =>
    rw [← hu op rfl]
    exact if_neg (by simp [hr])
  | command d => exact if_neg (by simp [hr])
  | bus t => exact if_neg (by simp [hr])

theorem step_eventOf {e : Encoding} {s : State} {rest : List Event} (hr : s.rst = false)
    (hu : ∀ op, e = .micro op → s.upc = op) (hs : s.sched = eventOf e :: rest) :
    step s = runEncoding e { s with sched := rest } := by
  rw [step_cons hs]
  exact takeTurn_eventOf hr hu

/-- The engine's turn, next in the schedule or with none left, runs the code in `upc`. -/
theorem step_engineMoves {s : State} (hr : s.rst = false) (hm : s.engineMoves) :
    step s = runEncoding (.micro s.upc) { s with sched := s.sched.tail } := by
  obtain hs | ⟨rest, hs⟩ := hm
  · rw [step_engine hr hs, hs, List.tail_nil, ← hs]
  · rw [step_eventOf (e := .micro s.upc) hr (fun _ h => by cases h; rfl) hs, hs, List.tail_cons]

/-- Settles O7: `upc` is the encoding that the engine's turn brings. -/
theorem engineTurnRunsTheMicroOpInUpc : Obligations.EngineTurnRunsTheMicroOpInUpc := by
  intro s i hr hi
  refine ⟨fun hs => ?_, fun rest hs => ?_⟩
  · rw [step_engine hr hs, runEncoding_ok hi]
  · rw [step_engineMoves hr (.inr ⟨rest, hs⟩), runEncoding_ok hi, hs, List.tail_cons]

/-- Settles O8: a transaction or a command is the encoding that its turn brings. -/
theorem hostTurnRunsTheDecodedTransaction : Obligations.HostTurnRunsTheDecodedTransaction := by
  intro s rest i hr
  refine ⟨fun t hs hi => ?_, fun d hs hi => ?_⟩
  · rw [step_eventOf (e := .bus t) hr (by simp) hs, runEncoding_ok hi]
  · rw [step_eventOf (e := .command d) hr (by simp) hs, runEncoding_ok hi]

theorem decodeTableWord_eq_some {nbits w : Nat} {i : Instr} :
    decodeTableWord nbits w = some i ↔ decode (encodingOfTableWord nbits w) = .ok i := by
  unfold decodeTableWord
  cases decode (encodingOfTableWord nbits w) <;> simp

/-- A placed micro-op code is in `upc`. -/
theorem State.withFetchWord_upc {s : State} {nbits w : Nat} {op : BitVec 5}
    (h : encodingOfTableWord nbits w = .micro op) : (s.withFetchWord nbits w).upc = op := by
  simp [State.withFetchWord, State.placeEncoding, h]

/-- Settles O9: the placed number's turn is the next, rst is released, and its code is in `upc`. -/
theorem placedTableWordRunsNext : Obligations.PlacedTableWordRunsNext := by
  intro s nbits w i h
  rw [step_eventOf (rest := s.sched) rfl (fun _ => State.withFetchWord_upc) rfl,
    runEncoding_ok (decodeTableWord_eq_some.1 h)]

/-! ## The two stops (R76, log 14) -/

/-- PAD at t = 63 is the one instruction that stops; it faults. -/
theorem exec_cases (i : Instr) (s : State) :
    (∃ t, exec i s = .next t) ∨
    (i = .pad ∧ s.t.toNat = 63 ∧ exec i s = .fault .tailIndexOutOfRange) := by
  by_cases h : i = .pad → s.t.toNat < 63
  · exact .inl (exec_goes_on i s h)
  · obtain ⟨rfl, ht⟩ := Classical.not_imp.1 h
    have := s.t.isLt
    exact .inr ⟨rfl, by omega, dif_neg ht⟩

/-- Only the code 0x01 decodes to PAD. -/
theorem decode_eq_pad {e : Encoding} (h : decode e = .ok .pad) : e = .micro 0x01 :=
  (encodeOfDecodeIsTheEncoding e .pad h).2.symm

/-- An encoding runs on, is PAD at t = 63, or is a reserved code. -/
theorem runEncoding_cases (e : Encoding) (s : State) :
    (∃ t, runEncoding e s = .next t) ∨
    (e = .micro 0x01 ∧ s.t.toNat = 63 ∧ runEncoding e s = .fault .tailIndexOutOfRange) ∨
    (∃ u, e = .micro u ∧ 0x0D ≤ u.toNat ∧ runEncoding e s = .refused (.reservedMicroOp u)) := by
  have runs {i : Instr} (hi : decode e = .ok i) : (∃ t, runEncoding e s = .next t) ∨
      (e = .micro 0x01 ∧ s.t.toNat = 63 ∧ runEncoding e s = .fault .tailIndexOutOfRange) := by
    rw [runEncoding_ok hi]
    obtain h | ⟨rfl, ht, h⟩ := exec_cases i s
    · exact .inl h
    · exact .inr ⟨decode_eq_pad hi, ht, h⟩
  rw [← or_assoc]
  cases e with
  | micro u =>
    by_cases hu : u.toNat ≤ 0x0C
    · obtain ⟨i, hi⟩ := decodeMicro_ok hu
      exact .inl (runs hi)
    · exact .inr ⟨u, rfl, by omega, runEncoding_reserved (by omega) s⟩
  | command d => exact .inl (runs rfl)
  | bus t => exact .inl (runs rfl)

theorem hostTurn_goes_on {e : Encoding} (he : ∀ op, e ≠ .micro op) (s : State) :
    ∃ t, hostTurn e s = .next t := by
  unfold hostTurn
  split
  · exact ⟨_, rfl⟩
  · obtain h | ⟨hu, -⟩ | ⟨u, hu, -⟩ := runEncoding_cases e s
    · exact h
    · exact absurd hu (he _)
    · exact absurd hu (he _)

theorem takeTurn_goes_on {e : Event} (he : e ≠ .engine) (s : State) :
    ∃ t, takeTurn e s = .next t := by
  cases e with
  | engine => exact absurd rfl he
  | command d => exact hostTurn_goes_on (by simp) s
  | bus t => exact hostTurn_goes_on (by simp) s
  | rst b => exact ⟨_, rfl⟩

/-- The engine's turn goes on, but at PAD with t = 63 and at a reserved code. -/
theorem engineTurn_outcomes (s : State) :
    (∃ t, engineTurn s = .next t) ∨
    (s.upc = 0x01 ∧ s.t.toNat = 63 ∧ engineTurn s = .fault .tailIndexOutOfRange) ∨
    (0x0D ≤ s.upc.toNat ∧ engineTurn s = .refused (.reservedMicroOp s.upc)) := by
  unfold engineTurn
  split
  · exact .inl ⟨s, rfl⟩
  · obtain h | ⟨hu, h⟩ | ⟨u, hu, h⟩ := runEncoding_cases (.micro s.upc) s
    · exact .inl h
    · exact .inr (.inl ⟨Encoding.micro.inj hu, h⟩)
    · obtain rfl := Encoding.micro.inj hu
      exact .inr (.inr h)

/-- A step stops only as the engine's turn does. -/
theorem step_outcomes (s : State) :
    s.goesOn ∨
    (s.upc = 0x01 ∧ s.t.toNat = 63 ∧ step s = .fault .tailIndexOutOfRange) ∨
    (0x0D ≤ s.upc.toNat ∧ step s = .refused (.reservedMicroOp s.upc)) := by
  unfold State.goesOn
  cases hs : s.sched with
  | nil =>
    rw [step_nil hs]
    exact engineTurn_outcomes s
  | cons e rest =>
    rw [step_cons hs]
    by_cases he : e = .engine
    · rw [he]
      exact engineTurn_outcomes { s with sched := rest }
    · exact .inl (takeTurn_goes_on he _)

/-- Settles O15: the invariant excludes both stops, and `step_outcomes` has no others. -/
theorem invariantStatesGoOn : Obligations.InvariantStatesGoOn := by
  refine ⟨fun s h => ?_, fun s ht => ?_, fun s f hf => ?_, fun s f hf => ?_⟩
  · obtain hg | ⟨hu, ht, -⟩ | ⟨hu, -⟩ := step_outcomes s
    · exact hg
    · have := h.pad_count hu
      have := s.nt.isLt
      omega
    · have := h.upc_code
      omega
  · exact dif_neg (by omega)
  · obtain ⟨t, e⟩ | ⟨hu, ht, e⟩ | ⟨-, e⟩ := step_outcomes s <;> rw [e] at hf <;> cases hf
    exact ⟨rfl, hu, ht⟩
  · obtain ⟨t, e⟩ | ⟨-, -, e⟩ | ⟨hu, e⟩ := step_outcomes s <;> rw [e] at hf <;> cases hf
    exact ⟨rfl, hu⟩

/-! ## What each micro-op writes (R80) -/

/-- The write column of R80, row by row: the fields a micro-op changes at most. The next code is
never a reserved one (R76). -/
inductive MicroOpEffect (s : State) : Instr → State → Prop
  | idle : MicroOpEffect s .idle s
  | pad {tail n c upc} (hu : upc.toNat ≤ 0x0C) :
      MicroOpEffect s .pad { s with tail := tail, n := n, t := c, upc := upc }
  | init {acc nb blk ch po r upc} (hu : upc.toNat ≤ 0x0C) :
      MicroOpEffect s .init { s with
        acc := acc, nb := nb, blk := blk, ch := ch, po := po, r := r, upc := upc }
  | capt {pre upc} (hu : upc.toNat ≤ 0x0C) :
      MicroOpEffect s .capt { s with pre := pre, upc := upc }
  | stage {i acc upc} (hi : i ∈ [Instr.mix, .alpha, .delta, .theta, .shuf])
      (hu : upc.toNat ≤ 0x0C) : MicroOpEffect s i { s with acc := acc, upc := upc }
  | primes {i acc q upc} (hi : i ∈ [Instr.gamma, .prime]) (hu : upc.toNat ≤ 0x0C) :
      MicroOpEffect s i { s with acc := acc, q := q, upc := upc }
  | add {acc blk ch po r upc} (hu : upc.toNat ≤ 0x0C) :
      MicroOpEffect s .add { s with
        acc := acc, blk := blk, ch := ch, po := po, r := r, upc := upc }
  | finish {out upc} (hu : upc.toNat ≤ 0x0C) :
      MicroOpEffect s .finish { s with out := out, busy := false, done := true, upc := upc }

theorem execPad_effect {s t : State} (h : execPad s = .next t) : MicroOpEffect s .pad t := by
  unfold execPad at h
  split at h <;> cases h
  exact .pad (by split <;> decide)

theorem execPrime_effect {s t : State} (h : execPrime s = .next t) : MicroOpEffect s .prime t := by
  unfold execPrime at h
  split at h <;> cases h <;> exact .primes (by simp) (by decide)

theorem execAdd_effect {s t : State} (h : execAdd s = .next t) : MicroOpEffect s .add t := by
  cases h
  obtain ⟨-, e⟩ | ⟨-, -, e⟩ | ⟨-, -, -, e⟩ | ⟨-, -, -, -, e⟩ | ⟨-, -, -, -, e⟩ :=
    State.advance_cases { s with acc := addFactor s.pre s.acc } <;> rw [e] <;>
    exact .add (by decide)

/-- Every micro-op has its row's effect. -/
theorem exec_microOp {i : Instr} {s t : State} (hi : i.isMicroOp = true)
    (h : exec i s = .next t) : MicroOpEffect s i t := by
  cases i with
  | idle => cases h; exact .idle
  | pad => exact execPad_effect h
  | init => cases h; exact .init (by decide)
  | capt => cases h; exact .capt (by decide)
  | mix | alpha | delta | theta | shuf => cases h; exact .stage (by simp) (by decide)
  | gamma => cases h; exact .primes (by simp) (by decide)
  | prime => exact execPrime_effect h
  | add => exact execAdd_effect h
  | finish => cases h; exact .finish (by decide)
  | _ => cases hi

/-- Settles O43: the frame is read off the effect of each row. -/
theorem microOpsWriteOnlyTheirRow : Obligations.MicroOpsWriteOnlyTheirRow := by
  intro i s t hi h
  cases exec_microOp hi h with
  | stage hi =>
    simp only [List.mem_cons, List.not_mem_nil, or_false] at hi
    obtain rfl | rfl | rfl | rfl | rfl := hi <;> simp
  | primes hi =>
    simp only [List.mem_cons, List.not_mem_nil, or_false] at hi
    obtain rfl | rfl := hi <;> simp
  | _ => simp

/-! ## No reserved code is written (R76) -/

theorem MicroOpEffect.upc_le {s t : State} {i : Instr} (h : MicroOpEffect s i t)
    (hs : s.upc.toNat ≤ 0x0C) : t.upc.toNat ≤ 0x0C := by
  cases h with
  | idle => exact hs
  | pad hu | init hu | capt hu | stage _ hu | primes _ hu | add hu | finish hu => exact hu

theorem State.startCommand_upc_le {s : State} (hs : s.upc.toNat ≤ 0x0C) :
    s.startCommand.upc.toNat ≤ 0x0C := by
  obtain ⟨-, e⟩ | ⟨-, -, e⟩ | ⟨-, -, e⟩ | ⟨-, -, -, e⟩ := s.startCommand_cases <;> rw [e]
  · exact hs
  · exact hs
  · exact hs
  · rw [State.beginHash_upc]
    obtain ⟨-, h⟩ | ⟨-, h⟩ := firstMicroOp_cases (tailCount s.clearOutcome.len) <;> rw [h] <;>
      decide

theorem State.ctrlWrite_upc_le {s : State} (hs : s.upc.toNat ≤ 0x0C) (d : Word32) :
    (s.ctrlWrite d).upc.toNat ≤ 0x0C := by
  obtain ⟨-, e⟩ | ⟨-, -, e⟩ | ⟨-, -, e⟩ := s.ctrlWrite_cases d <;> rw [e]
  · simp
  · exact State.startCommand_upc_le hs
  · exact hs

theorem State.lenWrite_upc (s : State) (d : Word32) : (s.lenWrite d).upc = s.upc := by
  obtain ⟨-, e⟩ | ⟨-, e⟩ := s.lenWrite_cases d <;> rw [e]
  rfl

theorem State.msgWrite_upc (s : State) (i : Nat) (n : Size) (d : Word32) :
    (s.msgWrite i n d).upc = s.upc := by
  obtain ⟨-, e⟩ | ⟨-, e⟩ := s.msgWrite_cases i n d <;> rw [e]
  rfl

theorem readRegister_upc (i : Item) (v : Word32) (off : BitVec 2) (n : Size) (s : State) :
    (readRegister i v off n s).upc = s.upc := by
  obtain ⟨r, h⟩ := readRegister_answers i v off n
  rw [h, State.answer_upc]

theorem readDigest_upc (b : Base) (off : BitVec 6) (n : Size) (s : State) :
    (readDigest b off n s).upc = s.upc := by
  obtain ⟨r, h⟩ := readDigest_answers b s.out off n
  rw [h s rfl, State.answer_upc]

/-- Commands and transactions keep `upc`, but for CLEAR and START (R101, R102). -/
theorem exec_upc_le {i : Instr} {s t : State} (h : exec i s = .next t)
    (hs : s.upc.toNat ≤ 0x0C) : t.upc.toNat ≤ 0x0C := by
  by_cases hi : i.isMicroOp = true
  · exact (exec_microOp hi h).upc_le hs
  cases i with
  | idle | pad | init | mix | capt | alpha | delta | theta | gamma | prime | shuf | add | finish =>
    exact absurd rfl hi
  | setie d => cases h; exact hs
  | start d => cases h; exact State.startCommand_upc_le (s := s.setIe d) hs
  | clear d => cases h; simp
  | wrCtrl d => cases h; exact State.ctrlWrite_upc_le hs d
  | wrStatus d => cases h; rwa [State.answer_upc, State.statusWrite_eq]
  | wrLen d => cases h; rwa [State.answer_upc, State.lenWrite_upc]
  | rdId | rdCtrl | rdStatus | rdCause | rdLen | rdCap | rdOut01 | rdOut23 =>
    cases h
    rwa [readRegister_upc]
  | rdD60 | rdD20 | rdD16 | rdD14 | rdD12 | rdD8 | rdD6 | rdD2 =>
    cases h
    rwa [readDigest_upc]
  | rdMsg a n =>
    simp only [exec, execRdMsg] at h
    split at h <;> cases h <;> exact hs
  | wrMsg a n d =>
    simp only [exec, execWrMsg] at h
    split at h <;> cases h
    · rwa [State.answer_upc, State.msgWrite_upc]
    · exact hs
  | busErr x => cases h; exact hs

/-- Settles O5: the engine's turn runs the code in `upc`, and no instruction, change of rst or reset
writes a reserved one. -/
theorem reservedMicroOpsRefusedAndNeverWritten :
    Obligations.ReservedMicroOpsRefusedAndNeverWritten := by
  refine ⟨fun s hu hr hm => ?_, fun i s t h hs => exec_upc_le h hs, fun s b hs => ?_, by decide⟩
  · rw [step_engineMoves hr hm, runEncoding_reserved hu]
  · cases b with
    | true => exact (by decide : (0 : BitVec 5).toNat ≤ 0x0C)
    | false => exact hs

end Sys2Proof.Machine
end

section
/-! PROOFS, family 40_host_interface.md, the commands and the register writes (R101 to R105): one
equation per case of START, and the two low bits of a CTRL write's data. -/

namespace Sys2Proof.Machine

/-! ## START (R101) -/

section Start

variable {s : State}

theorem State.startCommand_of_busy (hb : s.busy = true) : s.startCommand = s.dropWrite :=
  if_pos hb

theorem State.startCommand_of_empty (hb : s.busy = false) (h0 : s.len.toNat = 0) :
    s.startCommand = s.clearOutcome.raiseError .emptyInput := by
  rw [startCommand, if_neg (by simp [hb]), if_pos h0]

theorem State.startCommand_of_long (hb : s.busy = false) (hl : Config.msgCap < s.len.toNat) :
    s.startCommand = s.clearOutcome.raiseError .lenRange := by
  rw [startCommand, if_neg (by simp [hb]), if_neg (by omega), if_pos hl]

theorem State.startCommand_of_legal (hb : s.busy = false) (h1 : 1 ≤ s.len.toNat)
    (hcap : s.len.toNat ≤ Config.msgCap) : s.startCommand = s.clearOutcome.beginHash := by
  rw [startCommand, if_neg (by simp [hb]), if_neg (by omega), if_neg (by omega)]

end Start

/-- The padder's counter starts at L: 64 bits hold every length. -/
theorem State.beginHash_n_toNat (s : State) : s.beginHash.n.toNat = s.len.toNat := by
  have := s.len.isLt
  rw [State.beginHash_n, BitVec.toNat_setWidth, Nat.mod_eq_of_lt (by omega)]

/-- The first micro-op is PAD where tail words are missing, else INIT. -/
theorem firstMicroOp_eq (nt : BitVec 6) :
    (nt.toNat ≠ 0 → firstMicroOp nt = 0x01) ∧ (nt.toNat = 0 → firstMicroOp nt = 0x02) := by
  obtain ⟨rfl, e⟩ | ⟨h, e⟩ := firstMicroOp_cases nt
  · exact ⟨fun h => absurd rfl h, fun _ => e⟩
  · exact ⟨fun _ => e, fun h0 => absurd (BitVec.eq_of_toNat_eq h0) h⟩

/-- Settles O18: each of START's checks decides its case, after the copy into IE. -/
theorem startFollowsItsChecks : Obligations.StartFollowsItsChecks := by
  intro s d
  refine ⟨_, rfl, fun hb => ?busy, fun hb h0 => ?empty, fun hb hl => ?long,
    fun hb h1 hcap => ?legal⟩
  case busy => rw [State.startCommand_of_busy (s := s.setIe d) hb]; rfl
  case empty => rw [State.startCommand_of_empty (s := s.setIe d) hb h0]; rfl
  case long => rw [State.startCommand_of_long (s := s.setIe d) hb hl]; rfl
  case legal =>
    rw [State.startCommand_of_legal (s := s.setIe d) hb h1 hcap]
    exact ⟨rfl, State.beginHash_n_toNat _, tailCount_toNat s.len, firstMicroOp_eq _⟩

/-! ## The CTRL write and its commands (R102, R103) -/

/-- The two bits that select the command, as a number (R74). -/
theorem command_bits (d : Word32) : d.toNat % 4 = 2 * d[1].toNat + d[0].toNat := by
  have h0 := Nat.toNat_testBit d.toNat 0
  have h1 := Nat.toNat_testBit d.toNat 1
  rw [← BitVec.getElem_eq_testBit_toNat d _ (by decide)] at h0 h1
  omega

/-- The pattern `data & 0x3` of each command (R74). -/
theorem decodeCommand_eq (d : Word32) :
    (d.toNat % 4 = 0 → decodeCommand d = .setie d) ∧
    (d.toNat % 4 = 1 → decodeCommand d = .start d) ∧
    (2 ≤ d.toNat % 4 → decodeCommand d = .clear d) := by
  rw [command_bits]
  cases h1 : d[1] <;> cases h0 : d[0] <;> simp [decodeCommand, h1, h0]

/-- A command has the effect of the CTRL write of the same data (log 21). -/
theorem exec_command {d : Word32} {i : Instr} (h : decode (.command d) = .ok i) (s : State) :
    exec i s = exec (.wrCtrl d) s := by
  rw [← runEncoding_ok h, run_command]
  rfl

theorem State.ctrlWrite_ie (s : State) (d : Word32) : (s.ctrlWrite d).ie = d[2] := by
  obtain ⟨-, e⟩ | ⟨-, -, e⟩ | ⟨-, -, e⟩ := s.ctrlWrite_cases d <;> rw [e]
  · rfl
  · exact (s.setIe d).startCommand_keeps.1
  · rfl

/-- CTRL, STATUS and LEN take 4-byte writes only (R58). -/
theorem decode_narrowWrite {a : Word32} {n : Size} (hn : n ≠ .four)
    (ha : (0x004 ≤ a.toNat ∧ a.toNat < 0x00C) ∨ (0x010 ≤ a.toNat ∧ a.toNat < 0x014)) (d : Word32) :
    decode (.bus (.write a n d)) = .ok (.busErr (.write a n d)) := by
  have refused : writeRefusedAt a.toNat n := by simp [writeRefusedAt, hn, ha]
  exact decode_eq_busErr_iff.2 (legal_write_iff.2 (.inr (.inr refused)))

/-- Settles O20: the data's pattern decodes to a command, which has the write's effect. -/
theorem ctrlWriteSelectsTheCommand : Obligations.CtrlWriteSelectsTheCommand := by
  intro s d
  obtain ⟨setie, start, clear⟩ := decodeCommand_eq d
  have selects {i : Instr} (h : decodeCommand d = i) :
      decode (.command d) = .ok i ∧ exec i s = exec (.wrCtrl d) s :=
    have h : decode (.command d) = .ok i := congrArg Except.ok h
    ⟨h, exec_command h s⟩
  refine ⟨_, rfl, s.ctrlWrite_ie d, fun h => ?_, fun h => selects (start h),
    fun h => selects (clear h), fun n hn => decode_narrowWrite hn (by decide) d⟩
  obtain ⟨hd, e⟩ := selects (setie h)
  exact ⟨hd, e, by rw [← Host.Outcome.next.inj e]; rfl⟩

theorem Factor.zero_getElem {k : Nat} (hk : k < 4) : Factor.zero[k] = 0 := by
  simp [show Factor.zero = Vector.replicate 4 0 from rfl]

/-- Settles O19: the fields that CLEAR writes, one by one. -/
theorem clearReturnsToIdle : Obligations.ClearReturnsToIdle := by
  intro s d
  exact ⟨_, rfl, by simp [Factor.zero_getElem]⟩

/-- Settles O21: SETIE is the copy into IE alone. -/
theorem setieChangesOnlyIe : Obligations.SetieChangesOnlyIe :=
  fun _ _ => ⟨_, rfl, rfl, rfl⟩

/-! ## The STATUS and LEN writes (R104, R105) -/

/-- Settles O22: `State.statusWrite_eq` names each flag's new value. -/
theorem statusWriteClearsOnes : Obligations.StatusWriteClearsOnes := by
  intro s d
  refine ⟨(s.statusWrite d).answer .writeDone, rfl, ?_⟩
  rw [State.statusWrite_eq]
  exact ⟨rfl, rfl, rfl, rfl, rfl, fun n hn => decode_narrowWrite hn (by decide) d⟩

/-- Settles O23, by whether the engine is busy. -/
theorem lenWriteStoresOrDrops : Obligations.LenWriteStoresOrDrops := by
  intro s d
  have narrow := fun (n : Size) (hn : n ≠ .four) => decode_narrowWrite (a := 0x010) hn (by decide) d
  refine ⟨_, rfl, ?_⟩
  obtain ⟨hb, e⟩ | ⟨hb, e⟩ := s.lenWrite_cases d <;> rw [e]
  · exact ⟨fun _ => rfl, by simp [hb], narrow⟩
  · exact ⟨by simp [hb], fun _ => rfl, narrow⟩

end Sys2Proof.Machine
end

section
/-! PROOFS, family 40_host_interface.md, the MSG accesses and the reads (R106 to R116). A register
read answers a part of the register's value, an MSG or digest read the sum of its bytes. -/

namespace Sys2Proof.Machine

/-! ## The MSG accesses (R106, R107) -/

theorem exec_rdMsg {a : Word32} {n : Size} (h : MsgAccess a n) (s : State) :
    exec (.rdMsg a n) s = .next { s with
      resp := some (.readData (assemble (fun k => s.msg.read (a.toNat - 0x1000 + k)) n)) } :=
  if_pos h.access_ok

theorem exec_wrMsg {a : Word32} {n : Size} (h : MsgAccess a n) (d : Word32) (s : State) :
    exec (.wrMsg a n d) s = .next ((s.msgWrite (a.toNat - 0x1000) n d).answer .writeDone) :=
  if_pos h.access_ok

theorem exec_rdMsg_refused {a : Word32} {n : Size} (h : ¬ MsgAccess a n) (s : State) :
    exec (.rdMsg a n) s = .next { s with resp := some (.readError 0) } :=
  if_neg (mt msgAccess_iff.1 h)

theorem exec_wrMsg_refused {a : Word32} {n : Size} (h : ¬ MsgAccess a n) (d : Word32) (s : State) :
    exec (.wrMsg a n d) s = .next { s with resp := some .writeError } :=
  if_neg (mt msgAccess_iff.1 h)

theorem not_msgAccess {a : Word32} {n : Size}
    (h : a.toNat % bytesOf n ≠ 0 ∨ a.toNat < 0x1000 ∨
      0x1000 + Config.msgCap < a.toNat + bytesOf n) : ¬ MsgAccess a n := by
  rintro ⟨hal, hlo, hhi⟩
  omega

/-- Settles O24: inside MSG, by whether the engine is busy; the bytes are those of
`Memory.read_writeBytes`. -/
theorem msgWriteStoresItsBytes : Obligations.MsgWriteStoresItsBytes := by
  intro s a n d hwf
  refine ⟨fun h => exec_wrMsg_refused (not_msgAccess h) d s, fun hal hlo hhi => ?_⟩
  rw [exec_wrMsg ⟨hal, hlo, hhi⟩]
  obtain ⟨hb, e⟩ | ⟨hb, e⟩ := s.msgWrite_cases (a.toNat - 0x1000) n d <;> rw [e]
  · exact ⟨fun _ => ⟨_, rfl, rfl⟩, by simp [hb]⟩
  · refine ⟨by simp [hb], fun _ =>
      ⟨_, rfl, rfl, Memory.writeBytes_wf hwf _ d n, fun k hk => ?stored, fun i hi => ?kept⟩⟩
    case stored =>
      rw [State.answer_msg, Memory.read_writeBytes hwf, if_pos (by omega), byteOf_toNat,
        Nat.add_sub_cancel_left]
    case kept => rw [State.answer_msg, Memory.read_writeBytes hwf, if_neg (by omega)]

/-- Settles O26: the answer is the assembled bytes, whose value is their sum. -/
theorem msgReadSumsItsBytes : Obligations.MsgReadSumsItsBytes := by
  intro s a n
  exact ⟨fun hal hlo hhi => ⟨_, exec_rdMsg ⟨hal, hlo, hhi⟩ s, assemble_toNat _ n⟩,
    fun h => exec_rdMsg_refused (not_msgAccess h) s⟩

/-! ## The values of the registers (R23 to R28) -/

theorem State.ctrlWord_toNat (s : State) : s.ctrlWord.toNat = 4 * s.ie.toNat := by
  rw [State.ctrlWord]
  cases s.ie <;> rfl

theorem State.statusWord_toNat (s : State) :
    s.statusWord.toNat = s.busy.toNat + 2 * s.done.toNat + 4 * s.err.toNat + 8 * s.werr.toNat +
      16 * (s.ie && (s.done || s.err)).toNat := by
  have bits : ∀ b d e w i : Bool,
      (flagBit b ||| flagBit d <<< 1 ||| flagBit e <<< 2 ||| flagBit w <<< 3 |||
        flagBit i <<< 4).toNat =
      b.toNat + 2 * d.toNat + 4 * e.toNat + 8 * w.toNat + 16 * i.toNat := by decide
  exact bits ..

theorem State.causeWord_toNat (s : State) : s.causeWord.toNat = s.cause.toNat := by
  have := s.cause.isLt
  rw [State.causeWord, BitVec.toNat_setWidth, Nat.mod_eq_of_lt (by omega)]

theorem capWord_toNat : capWord.toNat = Config.msgCap := by
  have := Config.msgCap_bounds
  rw [capWord, BitVec.toNat_ofNat, Nat.mod_eq_of_lt (by omega)]

/-- Two words side by side in 32 bits, the first one lower (R28, R179). -/
theorem or_word_toNat (x y : Word) :
    (x.setWidth 32 ||| y.setWidth 32 <<< 16 : Word32).toNat = x.toNat + 2 ^ 16 * y.toNat := by
  have hx := x.isLt
  have hy := y.isLt
  rw [BitVec.toNat_or, BitVec.toNat_shiftLeft, BitVec.toNat_setWidth, BitVec.toNat_setWidth,
    Nat.mod_eq_of_lt (by omega : x.toNat < 2 ^ 32), Nat.mod_eq_of_lt (by omega : y.toNat < 2 ^ 32),
    Nat.shiftLeft_eq, Nat.mod_eq_of_lt (by omega), Nat.or_comm, ← Nat.shiftLeft_eq,
    ← Nat.shiftLeft_add_eq_or_of_lt hx, Nat.shiftLeft_eq]
  omega

theorem out01_toNat (out : Factor) : (out01 out).toNat = out[0].toNat + 2 ^ 16 * out[1].toNat :=
  or_word_toNat ..

theorem out23_toNat (out : Factor) : (out23 out).toNat = out[2].toNat + 2 ^ 16 * out[3].toNat :=
  or_word_toNat ..

/-! ## The register reads (R108 to R115) -/

/-- An aligned register read answers the selected part of the register's value. -/
theorem readRegister_value {off : BitVec 2} {n : Size} (h : off.toNat % bytesOf n = 0) (i : Item)
    {v : Word32} {value : Nat} (hv : v.toNat = value) (s : State) :
    ∃ w : Word32, (.next (readRegister i v off n s) : Host.Outcome State Fault Refusal) =
      .next { s with resp := some (.readData w) } ∧
      w.toNat = value / 2 ^ (8 * off.toNat) % 2 ^ (8 * bytesOf n) := by
  subst hv
  exact ⟨selectBytes v off n, congrArg _ (if_pos (by simp [aligned, h])),
    assemble_toNat_of_bytes fun _ _ => rfl⟩

/-- Settles O27: each read is its table row's, and answers from its register's value. -/
theorem registerReadsAnswerTheirBytes : Obligations.RegisterReadsAnswerTheirBytes := by
  intro s off n h
  obtain ⟨rdId, rdCtrl, rdStatus, rdCause, rdLen, rdCap, rdOut01, rdOut23⟩ :=
    busTransactionsDecodeByTheTable.1 off n h
  exact ⟨⟨rdId, readRegister_value h .id rfl s⟩,
    ⟨rdCtrl, readRegister_value h .ctrl s.ctrlWord_toNat s⟩,
    ⟨rdStatus, readRegister_value h .status s.statusWord_toNat s⟩,
    ⟨rdCause, readRegister_value h .cause s.causeWord_toNat s⟩,
    ⟨rdLen, readRegister_value h .len rfl s⟩,
    ⟨rdCap, readRegister_value h .cap capWord_toNat s⟩,
    ⟨rdOut01, readRegister_value h .out01 (out01_toNat s.out) s⟩,
    ⟨rdOut23, readRegister_value h .out23 (out23_toNat s.out) s⟩⟩

/-! ## The digest reads (R116) -/

/-- Character j of a word stands for its j-th digit, the most significant first (R172, R174). -/
theorem chars_getElem? (b : Base) (v : Word) {j : Nat} (hj : j < digitCount b) :
    (chars b v)[j]? =
      some (charOf b (v.toNat / Config.radix b ^ (digitCount b - 1 - j) % Config.radix b)) := by
  simp [chars, digits, hj]

/-- Character j of word w is the string's character w·W_B + j: every word is W_B wide (R174). -/
theorem digestString_getElem? (b : Base) (out : Factor) (w : Fin 4) {j : Nat}
    (hj : j < digitCount b) :
    (digestString b out)[w.val * digitCount b + j]? = (chars b out[w])[j]? := by
  match w with
  | 0 | 1 | 2 | 3 => grind [digestString, chars_length]

/-- The alphabet holds the character of every digit (R173). -/
theorem some_charOf (b : Base) {d : Nat} (h : d < Config.radix b) :
    some (charOf b d) = (Config.alphabet b)[d]? := by
  have hd : d < (Config.alphabet b).length := by rwa [Config.alphabet_length]
  rw [charOf, List.getD_eq_getElem _ _ hd, List.getElem?_eq_getElem hd]

/-- A window's byte inside the string is the alphabet's entry for its digit (R116, R172). -/
theorem digestByte_word (b : Base) (out : Factor) (w : Fin 4) {j : Nat} (hj : j < digitCount b) :
    some (digestByte b out (w.val * digitCount b + j)) =
      (Config.alphabet b)[out[w].toNat / Config.radix b ^ (digitCount b - 1 - j) %
        Config.radix b]? := by
  rw [digestByte, List.getD_eq_getElem?_getD, digestString_getElem? b out w hj,
    chars_getElem? b _ hj, Option.getD_some, some_charOf b (Nat.mod_lt _ (Config.radix_pos b))]

/-- An aligned digest read answers the sum of the window's bytes. -/
theorem readDigest_value {off : BitVec 6} {n : Size} (h : off.toNat % bytesOf n = 0) (b : Base)
    (s : State) :
    ∃ v : Word32, (.next (readDigest b off n s) : Host.Outcome State Fault Refusal) =
      .next { s with resp := some (.readData v) } ∧
      v.toNat = ((List.range (bytesOf n)).map fun m =>
        (digestByte b s.out (off.toNat + m)).toNat * 2 ^ (8 * m)).sum :=
  ⟨selectDigest b s.out off n, congrArg _ (if_pos (by simp [aligned, h])), assemble_toNat _ n⟩

/-- Settles O28: each read is its table row's and sums its window's bytes, which are the digits'
characters. -/
theorem digestReadsAnswerTheirCharacters : Obligations.DigestReadsAnswerTheirCharacters := by
  refine ⟨fun s off n h => ?_,
    fun b out => ⟨fun w _ hj => digestByte_word b out w hj, fun _ => digestByte_past b out⟩⟩
  obtain ⟨rdD60, rdD20, rdD16, rdD14, rdD12, rdD8, rdD6, rdD2⟩ :=
    busTransactionsDecodeByTheTable.2.1 off n h
  have read := fun b => readDigest_value h b s
  exact ⟨⟨rdD60, read .b60⟩, ⟨rdD20, read .b20⟩, ⟨rdD16, read .b16⟩, ⟨rdD14, read .b14⟩,
    ⟨rdD12, read .b12⟩, ⟨rdD8, read .b8⟩, ⟨rdD6, read .b6⟩, ⟨rdD2, read .b2⟩⟩

end Sys2Proof.Machine
end

section
/-! PROOFS, family 41_padder.md. One turn of the loop of `Pad(m)` appends one word below 256 (R123
to R125); one PAD step is one turn of that loop on the stream produced so far, from START's counters
to the last tail word (R121 to R123). -/

namespace Sys2Proof.Machine

/-! ## One PAD step (R122) -/

/-- The state that PAD leaves where TAIL has an entry t. -/
def State.padStep (s : State) (h : s.t.toNat < 63) : State :=
  { s with
    tail := s.tail.set s.t.toNat s.padWord
    n := s.n + s.padWord.setWidth 64
    t := s.t + 1
    upc := if s.t + 1 = s.nt then upcInit else upcPad }

theorem exec_pad {s : State} (h : s.t.toNat < 63) : exec .pad s = .next (s.padStep h) := dif_pos h

section PadStep

variable {s : State} (h : s.t.toNat < 63)

theorem State.padStep_t_toNat : (s.padStep h).t.toNat = s.t.toNat + 1 := by
  rw [padStep, BitVec.toNat_add, Nat.mod_eq_of_lt (by simp; omega)]
  rfl

theorem State.padStep_n_toNat :
    (s.padStep h).n.toNat = (s.n.toNat + s.padWord.toNat) % 2 ^ 64 := by
  simp [padStep]

theorem State.padStep_tail_getElem {j : Nat} (hj : j < 63) :
    (s.padStep h).tail[j] = if j = s.t.toNat then s.padWord else s.tail[j] := by
  simp only [padStep, Vector.getElem_set, eq_comm]

end PadStep

/-- The appended word as a number (R122). -/
theorem State.padWord_toNat {s : State} (hlen : 1 ≤ s.len.toNat) :
    s.padWord.toNat = (s.msg.read (s.n.toNat % s.len.toNat)).toNat ^^^ s.n.toNat % 256 := by
  have hbyte : ∀ b : Byte, (b.setWidth 16).toNat = b.toNat := fun b => by
    rw [BitVec.toNat_setWidth, Nat.mod_eq_of_lt (by omega)]
  rw [padWord, padIndex, if_neg (by omega), BitVec.toNat_xor, hbyte, hbyte, BitVec.toNat_setWidth]

/-- Settles O34: the state `State.padStep`, field by field. -/
theorem padAppendsOneTailWord : Obligations.PadAppendsOneTailWord := by
  intro s h
  refine ⟨s.padStep h, s.padWord.toNat, exec_pad h, rfl, State.padWord_toNat, s.padWord_lt,
    fun j hj => ?entry, State.padStep_n_toNat h, State.padStep_t_toNat h,
    fun hlast => if_pos hlast, fun hmore => if_neg hmore⟩
  case entry => rw [State.padStep_tail_getElem h hj, apply_ite BitVec.toNat]

/-! ## The loop of `Pad(m)` (R123) -/

/-- The word that one turn of the loop appends: `w[n mod L] ^ (n mod 256)`. -/
def padTerm (len : Nat) (w : List Word) (n : Nat) : Word :=
  w.getD (n % len) 0 ^^^ BitVec.ofNat 16 (n % 256)

theorem padLoop_of_aligned {w : List Word} (h : w.length % 64 = 0) (len fuel n : Nat) :
    padLoop len fuel w n = w := by
  cases fuel with
  | zero => rfl
  | succ fuel => exact if_pos h

theorem padLoop_succ {w : List Word} (h : w.length % 64 ≠ 0) (len fuel n : Nat) :
    padLoop len (fuel + 1) w n =
      padLoop len fuel (w ++ [padTerm len w n]) (n + (padTerm len w n).toNat) := if_neg h

/-- Words below 256 give a word below 256 (R125). -/
theorem padTerm_lt {w : List Word} (hw : ∀ x ∈ w, x.toNat < 256) (len n : Nat) :
    (padTerm len w n).toNat < 256 := by
  have hword : (w.getD (n % len) 0).toNat < 256 := by
    rw [List.getD_eq_getElem?_getD]
    cases hx : w[n % len]? with
    | none => decide
    | some x => exact hw x (List.mem_of_getElem? hx)
  have hn : (BitVec.ofNat 16 (n % 256)).toNat < 256 := by
    rw [BitVec.toNat_ofNat]
    omega
  rw [padTerm, BitVec.toNat_xor]
  exact Nat.xor_lt_two_pow (n := 8) hword hn

/-- The loop appends the words missing to a multiple of 64, each below 256 (R124, R125). -/
theorem padLoop_eq_append (len : Nat) {fuel : Nat} {w : List Word} (n : Nat)
    (hw : ∀ x ∈ w, x.toNat < 256) (hfuel : (64 - w.length % 64) % 64 ≤ fuel) :
    ∃ tail, padLoop len fuel w n = w ++ tail ∧ tail.length = (64 - w.length % 64) % 64 ∧
      ∀ x ∈ tail, x.toNat < 256 := by
  induction fuel generalizing w n with
  | zero => exact ⟨[], (List.append_nil w).symm, (Nat.le_zero.1 hfuel).symm, by simp⟩
  | succ fuel ih =>
    by_cases h : w.length % 64 = 0
    · exact ⟨[], by rw [padLoop_of_aligned h, List.append_nil], by simp [h], by simp⟩
    · have hx := padTerm_lt hw len n
      obtain ⟨tail, htail, hcount, hbytes⟩ := ih (w := w ++ [padTerm len w n])
        (n + (padTerm len w n).toNat) (List.forall_mem_append.2 ⟨hw, by simpa using hx⟩)
        (by simp; omega)
      refine ⟨padTerm len w n :: tail, ?_, ?_, List.forall_mem_cons.2 ⟨hx, hbytes⟩⟩
      · rw [padLoop_succ h, htail, List.append_assoc, List.singleton_append]
      · rw [List.length_append, List.length_singleton] at hcount
        rw [List.length_cons, hcount]
        omega

/-- Settles O52: the words that the loop appends to the message's. -/
theorem paddedStreamShape : Obligations.PaddedStreamShape := by
  intro m _
  have hbytes : ∀ x ∈ m.map fun b => b.setWidth 16, x.toNat < 256 := by
    simp only [List.forall_mem_map, BitVec.toNat_setWidth]
    omega
  obtain ⟨tail, hpad, hcount, htail⟩ : ∃ tail : List Word, padMessage m = _ ∧ _ :=
    padLoop_eq_append m.length m.length hbytes (by omega)
  rw [List.length_map] at hcount
  rw [hpad, List.length_append, List.length_map, hcount]
  refine ⟨by omega, rfl, fun i hi => ?_, List.forall_mem_append.2 ⟨hbytes, htail⟩⟩
  rw [List.getElem?_append_left (by simpa using hi), List.getElem?_map,
    List.getElem?_eq_getElem hi, Option.map_some]

/-! ## The stream produced so far (R121) -/

/-- The message's words and the t tail words that PAD has appended. -/
def State.stream (s : State) : List Word :=
  (List.range (s.len.toNat + s.t.toNat)).map s.streamWord

@[simp] theorem State.stream_length (s : State) : s.stream.length = s.len.toNat + s.t.toNat := by
  simp [stream]

theorem State.stream_getElem? {s : State} {i : Nat} (h : i < s.len.toNat + s.t.toNat) :
    s.stream[i]? = some (s.streamWord i) := by
  rw [stream, List.getElem?_map, List.getElem?_range h, Option.map_some]

theorem State.streamWord_of_lt {s : State} {i : Nat} (h : i < s.len.toNat) :
    s.streamWord i = (s.msg.read i).setWidth 16 := if_pos h

theorem State.streamWord_tail {s : State} {j : Nat} (h : j < s.nt.toNat) :
    s.streamWord (s.len.toNat + j) = s.tail[j]'(by omega) := by
  simp only [streamWord, Nat.add_sub_cancel_left]
  rw [if_neg (by omega), if_pos (by omega), dif_pos (by omega)]

/-- Before the first PAD step the stream is the message. -/
theorem State.stream_of_t_eq_zero {s : State} (h : s.t = 0) :
    s.stream = s.message.map fun b => b.setWidth 16 := by
  rw [stream, message, h, List.map_map]
  exact List.map_congr_left fun i hi => streamWord_of_lt (List.mem_range.1 hi)

/-- PAD's word is the loop's: its index reaches a byte of the message (R125). -/
theorem State.padTerm_stream {s : State} (hlen : 1 ≤ s.len.toNat) :
    padTerm s.len.toNat s.stream s.n.toNat = s.padWord := by
  have hi : s.n.toNat % s.len.toNat < s.len.toNat := Nat.mod_lt _ hlen
  have hn : BitVec.ofNat 16 (s.n.toNat % 256) = (s.n.setWidth 8).setWidth 16 :=
    BitVec.eq_of_toNat_eq (by simp)
  rw [padTerm, List.getD_eq_getElem?_getD, stream_getElem? (by omega), Option.getD_some,
    streamWord_of_lt hi, hn, padWord, padIndex, if_neg (by omega)]

/-- PAD appends its word to the stream. -/
theorem State.padStep_stream {s : State} (h : s.t.toNat < s.nt.toNat) (h63 : s.t.toNat < 63) :
    (s.padStep h63).stream = s.stream ++ [s.padWord] := by
  have hlast : (s.padStep h63).streamWord (s.len.toNat + s.t.toNat) = s.padWord := by
    refine (streamWord_tail (s := s.padStep h63) h).trans ?_
    rw [padStep_tail_getElem, if_pos rfl]
  have hkept : ∀ i < s.len.toNat + s.t.toNat, (s.padStep h63).streamWord i = s.streamWord i := by
    intro i hi
    by_cases hm : i < s.len.toNat
    · rw [streamWord_of_lt hm]
      exact streamWord_of_lt hm
    · obtain ⟨j, rfl⟩ := Nat.exists_eq_add_of_le (Nat.le_of_not_lt hm)
      have hj : j < s.nt.toNat := by omega
      refine (streamWord_tail (s := s.padStep h63) hj).trans ?_
      rw [streamWord_tail hj, padStep_tail_getElem, if_neg (by omega)]
  rw [stream, padStep_t_toNat, ← Nat.add_assoc, List.range_succ, List.map_append,
    List.map_singleton, stream]
  exact congrArg₂ (· ++ [·]) (List.map_congr_left fun i hi => hkept i (List.mem_range.1 hi)) hlast

/-! ## The PAD steps of one hash (R123) -/

/-- s with the padder's fields and `upc` of p. -/
def State.withPadder (s p : State) : State :=
  { s with tail := p.tail, n := p.n, t := p.t, upc := p.upc }

/-- s is between START's state s₀ and INIT: only the padder's fields have changed, and the loop run
on from s gives the padded message. `next` keeps PAD going until t is NT (R122), and `counter` keeps
n clear of the wrap at 2^64 (R126). -/
structure PadsFrom (s₀ s : State) : Prop where
  frame : s = s₀.withPadder s
  loop : padLoop s.len.toNat (64 - s.t.toNat) s.stream s.n.toNat = padMessage s₀.message
  next : s.upc = if s.t = s.nt then upcInit else upcPad
  counter : s.n.toNat ≤ s.len.toNat + 255 * s.t.toNat

/-- START leaves the loop's first state: t = 0, n = L, and the stream is the message. -/
theorem PadsFrom.start {s : State} (ht : s.t = 0) (hn : s.n.toNat = s.len.toNat)
    (hu : s.upc = firstMicroOp s.nt) : PadsFrom s s where
  frame := rfl
  loop := by
    rw [State.stream_of_t_eq_zero ht, ht, hn, padMessage]
    simp [State.message]
  next := by simp only [hu, ht, firstMicroOp, eq_comm]
  counter := by omega

section Padding

variable {s₀ s : State}

/-- What PAD steps do not change. -/
theorem PadsFrom.keeps (h : PadsFrom s₀ s) :
    s.rst = s₀.rst ∧ s.sched = s₀.sched ∧ s.len = s₀.len ∧ s.nt = s₀.nt := by
  rw [h.frame]
  exact ⟨rfl, rfl, rfl, rfl⟩

/-- Where tail words are missing, the stream does not fill its last block. -/
theorem State.stream_not_aligned (hnt : s.nt = tailCount s.len) (ht : s.t.toNat < s.nt.toNat) :
    s.stream.length % 64 ≠ 0 := by
  rw [hnt, tailCount_toNat] at ht
  rw [State.stream_length]
  omega

/-- One PAD step is one turn of the loop. -/
theorem PadsFrom.padStep (h : PadsFrom s₀ s) (hlen : 1 ≤ s.len.toNat)
    (hnt : s.nt = tailCount s.len) (ht : s.t.toNat < s.nt.toNat) (h63 : s.t.toNat < 63) :
    PadsFrom s₀ (s.padStep h63) := by
  have ht' := s.padStep_t_toNat h63
  have hn' : (s.padStep h63).n.toNat = s.n.toNat + s.padWord.toNat := by
    have := h.counter
    have := s.padWord_lt
    rw [s.padStep_n_toNat h63, Nat.mod_eq_of_lt (by omega)]
  refine ⟨(congrArg (State.withPadder · (s.padStep h63)) h.frame).trans rfl, ?loop, rfl, ?counter⟩
  case loop =>
    have hfuel : 64 - s.t.toNat = 64 - (s.t.toNat + 1) + 1 := by omega
    rw [← h.loop, hfuel, padLoop_succ (State.stream_not_aligned hnt ht),
      State.padTerm_stream hlen, hn', ht', State.padStep_stream ht]
    rfl
  case counter =>
    have := h.counter
    have := s.padWord_lt
    rw [hn', ht']
    change _ ≤ s.len.toNat + _
    omega

end Padding

/-- The engine makes the PAD steps one after the other (R122, R123). -/
theorem run_pads {s₀ : State} (h₀ : PadsFrom s₀ s₀) (ht₀ : s₀.t = 0) (hrst : s₀.rst = false)
    (hsched : s₀.sched = []) (hlen : 1 ≤ s₀.len.toNat) (hnt : s₀.nt = tailCount s₀.len) {k : Nat}
    (hk : k ≤ s₀.nt.toNat) :
    ∃ s : State, Sys2Proof.core.run k s₀ = .next s ∧ s.t.toNat = k ∧ PadsFrom s₀ s := by
  induction k with
  | zero => exact ⟨s₀, run_zero s₀, by rw [ht₀]; rfl, h₀⟩
  | succ k ih =>
    obtain ⟨s, hrun, htk, h⟩ := ih (by omega)
    obtain ⟨hr, hs, hl, hn⟩ := h.keeps
    have ht : s.t.toNat < s.nt.toNat := by rwa [htk, hn]
    have h63 : s.t.toNat < 63 := by omega
    have hu : s.upc = upcPad := h.next.trans (if_neg fun e => by rw [e] at ht; omega)
    have hstep : step s = .next (s.padStep h63) := by
      rw [step_engine (hr.trans hrst) (hs.trans hsched), hu, runEncoding_ok (i := .pad) rfl,
        exec_pad]
    refine ⟨s.padStep h63, ?_, by rw [State.padStep_t_toNat, htk],
      h.padStep (by rwa [hl]) (by rw [hn, hl, hnt]) ht h63⟩
    rw [run_add k 1 hrun, run_succ 0 hstep, run_zero]

/-- With no tail word missing, the engine is at INIT and the stream is the padded message. -/
theorem PadsFrom.done {s₀ s : State} (h : PadsFrom s₀ s) (hnt : s₀.nt = tailCount s₀.len)
    (ht : s.t = s.nt) : s.upc = upcInit ∧ s.stream = padMessage s₀.message := by
  obtain ⟨-, -, hl, hn⟩ := h.keeps
  have haligned : s.stream.length % 64 = 0 := by
    rw [State.stream_length, ht, hn, hnt, hl, tailCount_toNat]
    omega
  exact ⟨h.next.trans (if_pos ht), by rw [← h.loop, padLoop_of_aligned haligned]⟩

/-- An accepted START, with the copy into IE and the answer to the write (R101, R103). -/
theorem exec_start_legal {s : State} (d : Word32) (hb : s.busy = false) (h1 : 1 ≤ s.len.toNat)
    (hcap : s.len.toNat ≤ Config.msgCap) :
    exec (.start d) s = .next ((s.setIe d).clearOutcome.beginHash.answer .writeDone) := by
  rw [← State.startCommand_of_legal (s := s.setIe d) hb h1 hcap]
  rfl

/-- Settles O53: the NT steps of `run_pads` from START's state. -/
theorem padStepsProduceThePaddedMessage : Obligations.PadStepsProduceThePaddedMessage := by
  intro s d hrst hsched hb h1 hcap
  rw [← tailCount_toNat]
  have start : PadsFrom ((s.setIe d).clearOutcome.beginHash.answer .writeDone) _ :=
    .start rfl (State.beginHash_n_toNat _) rfl
  obtain ⟨t, hrun, ht, h⟩ := run_pads start rfl hrst hsched h1 rfl (Nat.le_refl _)
  obtain ⟨-, -, hl, hn⟩ := h.keeps
  obtain ⟨hu, hstream⟩ : t.upc = upcInit ∧ t.stream = padMessage s.message :=
    h.done rfl (BitVec.eq_of_toNat_eq (ht.trans (congrArg _ hn.symm)))
  refine ⟨_, t, exec_start_legal d hb h1 hcap, hrun, hu, fun i hi => ?_, h.frame⟩
  rw [← hstream]
  exact State.stream_getElem? (by rw [hl, ht]; exact hi)

end Sys2Proof.Machine
end

section
/-! PROOFS, family 42_init_mixer.md. What INIT seeds (R130) and where the words of MIX's portion lie
in the padded stream (R121, R131). -/

namespace Sys2Proof.Machine

/-! ## INIT (R130) -/

@[simp] theorem ivFactor_getElem (k : Fin 4) : ivFactor[k] = Config.iv k := by
  fin_cases k <;> rfl

/-- The quotient by 64 of a 32-bit length with a 6-bit tail count fits in NB, so a whole number of
blocks is counted exactly. -/
theorem blockCount_toNat_of_aligned {len : Word32} {nt : BitVec 6}
    (h : (len.toNat + nt.toNat) % 64 = 0) :
    64 * (blockCount len nt).toNat = len.toNat + nt.toNat := by
  have fits : (len.toNat + nt.toNat) / 64 < 2 ^ 32 := by omega
  rw [blockCount, BitVec.toNat_ofNat, Nat.mod_eq_of_lt fits,
    Nat.mul_div_cancel' (Nat.dvd_of_mod_eq_zero h)]

/-- Settles O35, from INIT's seed and its block count. -/
theorem initSeedsTheAccumulator : Obligations.InitSeedsTheAccumulator := fun _ =>
  ⟨_, rfl, rfl, ivFactor_getElem, blockCount_toNat_of_aligned⟩

/-! ## The current portion (R79, R131) -/

theorem State.portion_getElem (s : State) (j : Fin 4) :
    s.portion[j] = s.streamWord (s.portionBase + j.val) := by
  fin_cases j <;> rfl

theorem State.streamWord_toNat_of_lt {s : State} {i : Nat} (h : i < s.len.toNat) :
    (s.streamWord i).toNat = (s.msg.read i).toNat := by
  rw [streamWord_of_lt h, BitVec.toNat_setWidth_of_le (by decide)]

/-- `streamWord_tail` for an index counted from the start of the stream. -/
theorem State.streamWord_of_le {s : State} {i : Nat} (hle : s.len.toNat ≤ i)
    (hlt : i < s.len.toNat + s.nt.toNat) (h : i - s.len.toNat < 63) :
    s.streamWord i = s.tail[i - s.len.toNat] := by
  have hj : i - s.len.toNat < s.nt.toNat := by omega
  rw [← streamWord_tail hj, Nat.add_sub_cancel' hle]

/-- Settles O36: the portion is four words of the stream, each a message byte or a tail word. -/
theorem mixAbsorbsThePortion : Obligations.MixAbsorbsThePortion := by
  intro s
  refine ⟨_, s.portion, rfl, rfl, fun j i hi => ?_⟩
  have word : s.portion[j] = s.streamWord i := by rw [s.portion_getElem, hi, State.portionBase]
  rw [word]
  exact ⟨State.streamWord_toNat_of_lt, fun h hle hlt => State.streamWord_of_le hle hlt h⟩

end Sys2Proof.Machine
end

section
/-! PROOFS, family 43_round_pipeline.md. What each stage does to the four words (R140 to R147), and
the 97 micro-ops of one round run in order from CAPT (R153). -/

namespace Sys2Proof.Machine

/-! ## The Factor operations, word by word -/

theorem reduceFactor_getElem (a : Factor) (p : Word) (k : Fin 4) :
    (reduceFactor a p)[k] = a[k] % p := by
  fin_cases k <;> rfl

theorem addFactor_getElem (a b : Factor) (k : Fin 4) : (addFactor a b)[k] = a[k] + b[k] := by
  fin_cases k <;> rfl

/-- One swap reads through its transposition. -/
theorem swapWords_getElem (x : Factor) (p : Fin 4 × Fin 4) (k : Fin 4) :
    (swapWords x p)[k] = x[Equiv.swap p.1 p.2 k] := by
  obtain ⟨a, b⟩ := p
  simp only [swapWords, Equiv.swap_apply_def, Fin.getElem_fin, Vector.getElem_set, Fin.val_inj]
  obtain rfl | ha := eq_or_ne k a <;> obtain rfl | hb := eq_or_ne k b
  · simp
  · simp [hb.symm]
  · simp [ha]
  · simp [ha, hb, ha.symm, hb.symm]

/-- Swaps made one after the other read through the product of their transpositions, the first swap
being the last to be applied to an index. -/
theorem foldl_swapWords_getElem (l : List (Fin 4 × Fin 4)) (x : Factor) (k : Fin 4) :
    (l.foldl swapWords x)[k] = x[(l.map fun p => Equiv.swap p.1 p.2).prod k] := by
  induction l generalizing x with
  | nil => rfl
  | cons p l ih =>
    simp only [List.foldl_cons, ih, swapWords_getElem, List.map_cons, List.prod_cons,
      Equiv.Perm.mul_apply]

/-- A Factor that reads another through a permutation of the slots holds the same words. -/
theorem toList_perm_of_getElem {x y : Factor} (σ : Equiv.Perm (Fin 4))
    (h : ∀ k : Fin 4, y[k] = x[σ k]) : y.toList.Perm x.toList := by
  have words : ∀ z : Factor, z.toList = List.ofFn fun k : Fin 4 => z[k] := fun z =>
    List.ext_getElem (by rw [Vector.length_toList, List.length_ofFn]) fun i _ _ => by
      rw [Vector.getElem_toList, List.getElem_ofFn, Fin.getElem_fin]
  rw [words, words, funext h]
  exact σ.ofFn_comp_perm fun k => x[k]

/-! ## One micro-op of each stage (R140 to R147) -/

/-- Settles O37: PRE is ACC. -/
theorem captCapturesTheAccumulator : Obligations.CaptCapturesTheAccumulator := fun _ =>
  ⟨_, rfl, rfl, fun _ => rfl⟩

/-- PRIME at the last entry of the table leaves the stage. -/
theorem exec_prime_last {s : State} (h : s.q.toNat = 89) :
    exec .prime s = .next { s with
      acc := primeStage s.acc (Config.rprime s.q), q := 0, upc := upcShuf } := if_pos h

theorem exec_prime_more {s : State} (h : s.q.toNat ≠ 89) :
    exec .prime s = .next { s with
      acc := primeStage s.acc (Config.rprime s.q), q := s.q + 1, upc := upcPrime } := if_neg h

/-- The reduction leaves remainders of the round prime, which is not 0 (R145). -/
theorem reduceFactor_rprime (a : Factor) (q : BitVec 7) (k : Fin 4) :
    (reduceFactor a (Config.rprime q))[k].toNat = a[k].toNat % (Config.rprime q).toNat ∧
      (reduceFactor a (Config.rprime q))[k].toNat < (Config.rprime q).toNat := by
  have pos := Config.two_le_rprime q
  rw [reduceFactor_getElem, BitVec.toNat_umod]
  exact ⟨rfl, Nat.mod_lt _ (by omega)⟩

/-- Settles O39, by whether q is at the table's last entry. -/
theorem primeReducesThenMixes : Obligations.PrimeReducesThenMixes := by
  intro s
  by_cases h : s.q.toNat = 89
  · exact ⟨_, _, exec_prime_last h, reduceFactor_rprime s.acc s.q, rfl, fun _ => ⟨rfl, rfl⟩,
      fun hlt => absurd h hlt.ne⟩
  · refine ⟨_, _, exec_prime_more h, reduceFactor_rprime s.acc s.q, rfl, fun e => absurd e h,
      fun hlt => ⟨?count, rfl⟩⟩
    case count =>
      rw [BitVec.toNat_add, Nat.mod_eq_of_lt (by simp; omega)]
      rfl

theorem shuffle_getElem (x : Factor) (k : Fin 4) :
    (shuffle x)[k] = x[(Config.shuffleOrder.map fun p => Equiv.swap p.1 p.2).prod k] :=
  foldl_swapWords_getElem Config.shuffleOrder x k

/-- Settles O40: the six swaps are one permutation of the slots. -/
theorem shufflePermutesTheWords : Obligations.ShufflePermutesTheWords :=
  ⟨Config.shuffleOrder_perm, fun s =>
    ⟨_, rfl, rfl, shuffle_getElem s.acc, toList_perm_of_getElem _ (shuffle_getElem s.acc)⟩⟩

/-- ADVANCE writes the counters and `upc` (R162). -/
theorem State.advance_frame (s : State) :
    s.advance = { s with
      r := s.advance.r, po := s.advance.po, ch := s.advance.ch, blk := s.advance.blk
      upc := s.advance.upc } := by
  obtain ⟨-, e⟩ | ⟨-, -, e⟩ | ⟨-, -, -, e⟩ | ⟨-, -, -, -, e⟩ | ⟨-, -, -, -, e⟩ :=
    s.advance_cases <;> rw [e]

@[simp] theorem State.advance_acc (s : State) : s.advance.acc = s.acc := by
  rw [s.advance_frame]

/-- ADVANCE goes on to MIX or to FINISH (R162). -/
theorem State.advance_upc (s : State) : s.advance.upc = upcMix ∨ s.advance.upc = upcFinish := by
  obtain ⟨-, e⟩ | ⟨-, -, e⟩ | ⟨-, -, -, e⟩ | ⟨-, -, -, -, e⟩ | ⟨-, -, -, -, e⟩ :=
    s.advance_cases <;> simp [e]

/-- ADVANCE as nested counters: each steps below its bound, and at the bound returns to 0 and hands
on to the next (R162). -/
theorem State.advance_counters (s : State) :
    (s.r.toNat < 30 → s.advance.r.toNat = s.r.toNat + 1 ∧ s.advance.po = s.po ∧
      s.advance.ch = s.ch ∧ s.advance.blk = s.blk ∧ s.advance.upc = upcMix) ∧
    (30 ≤ s.r.toNat → s.advance.r = 0 ∧
      (s.po.toNat < 3 → s.advance.po.toNat = s.po.toNat + 1 ∧ s.advance.ch = s.ch ∧
        s.advance.blk = s.blk ∧ s.advance.upc = upcMix) ∧
      (s.po.toNat = 3 → s.advance.po = 0 ∧
        (s.ch.toNat < 3 → s.advance.ch.toNat = s.ch.toNat + 1 ∧ s.advance.blk = s.blk ∧
          s.advance.upc = upcMix) ∧
        (s.ch.toNat = 3 → s.advance.ch = 0 ∧
          (s.blk.toNat + 1 < s.nb.toNat →
            s.advance.blk.toNat = s.blk.toNat + 1 ∧ s.advance.upc = upcMix) ∧
          (s.nb.toNat ≤ s.blk.toNat + 1 →
            s.advance.blk = s.blk ∧ s.advance.upc = upcFinish)))) := by
  obtain ⟨hr, e⟩ | ⟨hr, hp, e⟩ | ⟨hr, hp, hc, e⟩ | ⟨hr, hp, hc, hb, e⟩ | ⟨hr, hp, hc, hb, e⟩ :=
    s.advance_cases <;> rw [e]
  · simp
    omega
  · simp
    omega
  · simp [hp]
    omega
  · simp [hp, hc]
    omega
  · simp [hp, hc]
    omega

/-- Settles O41: ADVANCE after the sum. -/
theorem addReinjectsAndAdvances : Obligations.AddReinjectsAndAdvances := by
  intro s
  refine ⟨_, rfl, ?frame, fun k => ?sum,
    State.advance_counters { s with acc := addFactor s.pre s.acc }⟩
  case frame =>
    rw [State.advance_acc]
    exact State.advance_frame _
  case sum => rw [State.advance_acc, addFactor_getElem, BitVec.toNat_add]

/-! ## Engine steps with the host silent -/

/-- The first step of a run is the micro-op in `upc`. -/
theorem run_succ_microOp {s t : State} {i : Instr} (k : Nat) (hr : s.rst = false)
    (hs : s.sched = []) (hi : decodeMicro s.upc = .ok i) (ht : exec i s = .next t) :
    Sys2Proof.core.run (k + 1) s = Sys2Proof.core.run k t :=
  run_succ k (((engineTurnRunsTheMicroOpInUpc s i hr hi).1 hs).trans ht)

/-- Stage 1 as a function: the four sub-transforms in their order (R153, R154). -/
def alphabetStage (a : Factor) : Factor :=
  Config.gamma (Config.theta (Config.delta (Config.alpha a)))

/-- The four steps of the alphabet stage (R154). -/
theorem run_alphabet {s : State} (hr : s.rst = false) (hs : s.sched = []) (hu : s.upc = upcAlpha) :
    Sys2Proof.core.run 4 s = .next { s with
      acc := alphabetStage s.acc, q := 0, upc := upcPrime } :=
  calc Sys2Proof.core.run 4 s
    _ = Sys2Proof.core.run 3 { s with acc := Config.alpha s.acc, upc := upcDelta } :=
      run_succ_microOp (i := .alpha) 3 hr hs (by rw [hu]; rfl) rfl
    _ = Sys2Proof.core.run 2 { s with
          acc := Config.delta (Config.alpha s.acc), upc := upcTheta } :=
      run_succ_microOp (i := .delta) 2 hr hs rfl rfl
    _ = Sys2Proof.core.run 1 { s with
          acc := Config.theta (Config.delta (Config.alpha s.acc)), upc := upcGamma } :=
      run_succ_microOp (i := .theta) 1 hr hs rfl rfl
    _ = .next { s with acc := alphabetStage s.acc, q := 0, upc := upcPrime } :=
      run_succ_microOp (i := .gamma) 0 hr hs rfl rfl

/-- Settles O38: each micro-op by its meaning, the four steps by `run_alphabet`. -/
theorem alphabetStageAppliesInOrder : Obligations.AlphabetStageAppliesInOrder := fun _ =>
  ⟨rfl, rfl, rfl, rfl, run_alphabet⟩

/-- The first k round primes in table order; `primeStages` is all 90 of them. -/
def primeRounds (k : Nat) (a : Factor) : Factor :=
  (List.range k).foldl (fun x q => primeStage x (Config.rprime (BitVec.ofNat 7 q))) a

theorem primeRounds_ninety (a : Factor) : primeRounds 90 a = primeStages a := rfl

theorem primeRounds_succ (k : Nat) (a : Factor) :
    primeRounds (k + 1) a = primeStage (primeRounds k a) (Config.rprime (BitVec.ofNat 7 k)) := by
  rw [primeRounds, List.range_succ, List.foldl_concat, primeRounds]

section Primes

variable {s : State} (hr : s.rst = false) (hs : s.sched = []) (hu : s.upc = upcPrime)

include hr hs hu

/-- Up to the table's last entry, PRIME steps count q from 0. -/
theorem run_primes (hq : s.q = 0) {k : Nat} (hk : k ≤ 89) :
    Sys2Proof.core.run k s = .next { s with
      acc := primeRounds k s.acc, q := BitVec.ofNat 7 k, upc := upcPrime } := by
  induction k with
  | zero =>
    cases s
    cases hu
    cases hq
    rfl
  | succ k ih =>
    have more : (BitVec.ofNat 7 k).toNat ≠ 89 := by
      rw [BitVec.toNat_ofNat]
      omega
    calc Sys2Proof.core.run (k + 1) s
      _ = Sys2Proof.core.run 1 { s with
            acc := primeRounds k s.acc, q := BitVec.ofNat 7 k, upc := upcPrime } :=
        run_add k 1 (ih (by omega))
      _ = .next { s with
            acc := primeStage (primeRounds k s.acc) (Config.rprime (BitVec.ofNat 7 k))
            q := BitVec.ofNat 7 k + 1, upc := upcPrime } :=
        run_succ_microOp (i := .prime) 0 hr hs rfl (exec_prime_more more)
      _ = .next { s with
            acc := primeRounds (k + 1) s.acc, q := BitVec.ofNat 7 (k + 1), upc := upcPrime } := by
        rw [primeRounds_succ, BitVec.ofNat_add]
        rfl

/-- The 90 steps of the prime stage (R145). -/
theorem run_primeStages (hq : s.q = 0) :
    Sys2Proof.core.run 90 s = .next { s with
      acc := primeStages s.acc, q := 0, upc := upcShuf } :=
  calc Sys2Proof.core.run 90 s
    _ = Sys2Proof.core.run 1 { s with
          acc := primeRounds 89 s.acc, q := BitVec.ofNat 7 89, upc := upcPrime } :=
      run_add 89 1 (run_primes hr hs hu hq le_rfl)
    _ = .next { s with
          acc := primeStage (primeRounds 89 s.acc) (Config.rprime (BitVec.ofNat 7 89)), q := 0
          upc := upcShuf } :=
      run_succ_microOp (i := .prime) 0 hr hs rfl (exec_prime_last rfl)
    _ = .next { s with acc := primeStages s.acc, q := 0, upc := upcShuf } := by
      rw [← primeRounds_ninety, primeRounds_succ 89]

end Primes

/-! ## One round (R153) -/

/-- The 97 steps of one round, ADVANCE included. -/
theorem run_round {s : State} (hr : s.rst = false) (hs : s.sched = []) (hu : s.upc = upcCapt) :
    Sys2Proof.core.run 97 s = .next (State.advance { s with
      acc := roundPipeline s.acc, pre := s.acc, q := 0, upc := upcAdd }) :=
  calc Sys2Proof.core.run 97 s
    _ = Sys2Proof.core.run 96 { s with pre := s.acc, upc := upcAlpha } :=
      run_succ_microOp (i := .capt) 96 hr hs (by rw [hu]; rfl) rfl
    _ = Sys2Proof.core.run 92 { s with
          acc := alphabetStage s.acc, pre := s.acc, q := 0, upc := upcPrime } :=
      run_add 4 92 (run_alphabet hr hs rfl)
    _ = Sys2Proof.core.run 2 { s with
          acc := primeStages (alphabetStage s.acc), pre := s.acc, q := 0, upc := upcShuf } :=
      run_add 90 2 (run_primeStages hr hs rfl rfl)
    _ = Sys2Proof.core.run 1 { s with
          acc := shuffle (primeStages (alphabetStage s.acc)), pre := s.acc, q := 0
          upc := upcAdd } :=
      run_succ_microOp (i := .shuf) 1 hr hs rfl rfl
    _ = .next (State.advance { s with
          acc := roundPipeline s.acc, pre := s.acc, q := 0, upc := upcAdd }) :=
      run_succ_microOp (i := .add) 0 hr hs rfl rfl

/-- Settles O54: `run_round`, with ADVANCE's frame. -/
theorem roundStepsComputeRoundPipeline : Obligations.RoundStepsComputeRoundPipeline := by
  intro s hr hs hu
  refine ⟨_, run_round hr hs hu, State.advance_acc _, State.advance_upc _, ?frame⟩
  case frame =>
    rw [State.advance_acc]
    exact State.advance_frame _

end Sys2Proof.Machine
end

section
/-! PROOFS, family 44_driver.md, the engine's turns. An idle engine waits (R160), FINISH publishes
the result (R163), and no engine turn sees the bus answer or the turns still to come, so host reads
between engine turns leave the result as it is (R168). -/

namespace Sys2Proof.Machine

/-! ## IDLE and FINISH (R160, R163) -/

/-- Settles O33: an idle engine's step is the state itself, and so is any run of such steps. -/
theorem idleEngineWaits : Obligations.IdleEngineWaits := by
  intro s
  refine ⟨rfl, fun hu hs k => ?_⟩
  have hstep : step s = .next s := (step_nil hs).trans (engineTurn_idle hu)
  induction k with
  | zero => rfl
  | succ k ih => exact (run_succ k hstep).trans ih

/-- FINISH's next state (R163). -/
theorem exec_finish (s : State) :
    exec .finish s = .next { s with out := s.acc, busy := false, done := true, upc := upcIdle } :=
  rfl

/-- Settles O42: OUT is ACC. -/
theorem finishPublishesTheResult : Obligations.FinishPublishesTheResult := fun s =>
  ⟨_, exec_finish s, rfl, fun _ => rfl⟩

/-! ## What the engine does not see (R168) -/

/-- s with another bus answer and other turns still to come: the two fields of the host's side. -/
def State.withHost (s : State) (resp : Option Response) (sched : List Event) : State :=
  { s with resp := resp, sched := sched }

theorem State.advance_withHost (s : State) (resp : Option Response) (sched : List Event) :
    (s.withHost resp sched).advance = s.advance.withHost resp sched := by
  simp only [advance, apply_ite (State.withHost · resp sched)]
  rfl

/-- A micro-op reads and writes nothing of the host's side (R80). -/
theorem exec_withHost {i : Instr} (hi : i.isMicroOp = true) {s t : State} (h : exec i s = .next t)
    (resp : Option Response) (sched : List Event) :
    exec i (s.withHost resp sched) = .next (t.withHost resp sched) := by
  cases i with
  | pad =>
    by_cases ht : s.t.toNat < 63
    · rw [exec_pad ht] at h
      cases h
      exact exec_pad (s := s.withHost resp sched) ht
    · cases (dif_neg ht).symm.trans h
  | prime =>
    by_cases hq : s.q.toNat = 89
    · rw [exec_prime_last hq] at h
      cases h
      exact exec_prime_last (s := s.withHost resp sched) hq
    · rw [exec_prime_more hq] at h
      cases h
      exact exec_prime_more (s := s.withHost resp sched) hq
  | add =>
    cases h
    exact congrArg Host.Outcome.next
      (State.advance_withHost { s with acc := addFactor s.pre s.acc } resp sched)
  | idle | init | mix | capt | alpha | delta | theta | gamma | shuf | finish =>
    cases h
    rfl
  | _ => cases hi

/-- Only micro-ops decode from `upc`. -/
theorem isMicroOp_of_decodeMicro {u : BitVec 5} {i : Instr} (h : decodeMicro u = .ok i) :
    i.isMicroOp = true := by
  rw [Instr.isMicroOp, (encodeOfDecodeIsTheEncoding (.micro u) i h).2]

/-- The engine's turn reads and writes nothing of the host's side. -/
theorem engineTurn_withHost {s t : State} (h : engineTurn s = .next t) (resp : Option Response)
    (sched : List Event) :
    engineTurn (s.withHost resp sched) = .next (t.withHost resp sched) := by
  unfold engineTurn at h ⊢
  split at h
  · next hr =>
    cases h
    exact if_pos hr
  · next hr =>
    refine (if_neg hr).trans ?_
    unfold runEncoding at h
    split at h
    · next i hi =>
      exact (runEncoding_ok hi _).trans (exec_withHost (isMicroOp_of_decodeMicro hi) h resp sched)
    · cases h

/-- The engine's turn leaves reset and the turns still to come alone. -/
theorem engineTurn_keeps {s t : State} (h : engineTurn s = .next t) :
    t.rst = s.rst ∧ t.sched = s.sched := by
  obtain e | ⟨-, e⟩ | ⟨-, e⟩ | ⟨-, e⟩ | ⟨-, e⟩ | ⟨-, e⟩ := engineTurn_cases h <;> rw [e] <;>
    exact ⟨rfl, rfl⟩

/-- A read changes the answer only, legal or not (R59). -/
theorem step_read {s : State} {e : Event} {rest : List Event} (he : e.isRead = true)
    (hr : s.rst = false) (resp : Option Response) :
    ∃ r, step (s.withHost resp (e :: rest)) = .next (s.withHost (some r) rest) := by
  match e with
  | .bus (.read a n) =>
    obtain ⟨r, hread, -⟩ := run_read_alike (State.LooksLike.refl (s.withHost resp rest)) a n
    exact ⟨r, (step_bus (s := s.withHost resp (.bus (.read a n) :: rest)) hr rfl).trans hread⟩

/-- Where the engine turns of a schedule alone reach u, the whole schedule reaches u but for the
answer. The answer that s starts from is left open, so that the induction passes a read. -/
theorem run_with_reads {turns : List Event} (hturns : ∀ e ∈ turns, e = .engine ∨ e.isRead = true)
    {s : State} (hinv : s.Inv) (hr : s.rst = false) (hs : s.sched = []) :
    ∃ u, Sys2Proof.core.run (turns.count .engine) s = .next u ∧ ∀ resp, ∃ resp',
      Sys2Proof.core.run turns.length (s.withHost resp turns) = .next (u.withHost resp' []) := by
  induction turns generalizing s with
  | nil => exact ⟨s, rfl, fun resp => ⟨resp, rfl⟩⟩
  | cons e rest ih =>
    obtain ⟨he, hrest⟩ := List.forall_mem_cons.1 hturns
    obtain rfl | he := he
    · obtain ⟨t, ht⟩ := invariantStatesGoOn.1 s hinv
      have hengine : engineTurn s = .next t := (step_nil hs).symm.trans ht
      obtain ⟨hr', hs'⟩ := engineTurn_keeps hengine
      obtain ⟨u, hu, hreads⟩ := ih hrest (engineTurn_keeps_inv hinv hengine) (hr'.trans hr)
        (hs'.trans hs)
      refine ⟨u, ?_, fun resp => ?_⟩
      · rw [List.count_cons_self, run_succ _ ht, hu]
      · obtain ⟨resp', hrun⟩ := hreads resp
        have hstep : step (s.withHost resp (.engine :: rest)) = .next (t.withHost resp rest) :=
          engineTurn_withHost hengine resp rest
        exact ⟨resp', (run_succ _ hstep).trans hrun⟩
    · obtain ⟨u, hu, hreads⟩ := ih hrest hinv hr hs
      have hne : e ≠ .engine := by
        rintro rfl
        cases he
      refine ⟨u, by rw [List.count_cons_of_ne hne, hu], fun resp => ?_⟩
      obtain ⟨r, hread⟩ := step_read (rest := rest) he hr resp
      obtain ⟨resp', hrun⟩ := hreads (some r)
      exact ⟨resp', (run_succ _ hread).trans hrun⟩

/-- Settles O50: `run_with_reads` from s with no turn left. -/
theorem resultIndependentOfInterleavedReads : Obligations.ResultIndependentOfInterleavedReads := by
  intro s turns hinv hr hturns
  obtain ⟨u, hu, hreads⟩ := run_with_reads hturns (hinv.withSched []) hr rfl
  obtain ⟨resp, hrun⟩ := hreads s.resp
  exact ⟨_, u, hrun, hu, rfl⟩

end Sys2Proof.Machine
end

section
/-! PROOFS, family 44_driver.md, the whole hash. The rounds of a hash are counted by one index, from
the four nested counters (R161, R167): ADVANCE adds 1 to it, and the functions `absorbPortion` to
`absorbStream` are runs of 31, 124, 496 and 496·NB rounds (R164, R165). -/

namespace Sys2Proof.Machine

/-! ## The round index (R161, R162, R167) -/

/-- Which round of the hash the counters name: 31 rounds a portion, 4 portions a chunk, 4 chunks a
block. -/
def State.roundIndex (s : State) : Nat :=
  496 * s.blk.toNat + 124 * s.ch.toNat + 31 * s.po.toNat + s.r.toNat

/-- ADVANCE goes to MIX of the next round, or to FINISH after the last (R162). -/
theorem State.advance_roundIndex {s : State} (hr : s.r.toNat ≤ 30)
    (hlt : s.roundIndex < 496 * s.nb.toNat) :
    (s.roundIndex + 1 < 496 * s.nb.toNat ∧ s.advance.upc = upcMix ∧ s.advance.r.toNat ≤ 30 ∧
      s.advance.roundIndex = s.roundIndex + 1) ∨
    (s.roundIndex + 1 = 496 * s.nb.toNat ∧ s.advance.upc = upcFinish) := by
  unfold State.roundIndex at *
  obtain ⟨hr, e⟩ | ⟨hr, hp, e⟩ | ⟨hr, hp, hc, e⟩ | ⟨hr, hp, hc, hb, e⟩ | ⟨hr, hp, hc, hb, e⟩ :=
    s.advance_cases <;> rw [e]
  · left; simp; omega
  · left; simp; omega
  · left; simp [hp]; omega
  · left; simp [hp, hc]; omega
  · right; simp [hp, hc] at *; omega

/-- The current portion's number in the stream is the round index over 31 (R167). -/
theorem State.portionBase_eq (s : State) (hr : s.r.toNat ≤ 30) :
    s.portionBase = 4 * (s.roundIndex / 31) := by
  unfold State.portionBase State.roundIndex
  omega

/-! ## One round of a hash (R161) -/

/-- s with the fields of p that the portion loop writes (R80). -/
def State.withLoop (s p : State) : State :=
  { s with
    acc := p.acc, pre := p.pre, q := p.q, blk := p.blk, ch := p.ch, po := p.po, r := p.r
    upc := p.upc }

theorem State.advance_withLoop (s : State) : s.advance = s.withLoop s.advance := by
  obtain ⟨-, e⟩ | ⟨-, -, e⟩ | ⟨-, -, -, e⟩ | ⟨-, -, -, -, e⟩ | ⟨-, -, -, -, e⟩ :=
    s.advance_cases <;> rw [e] <;> rfl

theorem State.withLoop_trans {s₀ s t : State} (hs : s = s₀.withLoop s) (ht : t = s.withLoop t) :
    t = s₀.withLoop t :=
  have h : s.withLoop t = (s₀.withLoop s).withLoop t := congrArg (State.withLoop · t) hs
  ht.trans h

/-- s has absorbed K rounds since INIT left s₀, and its accumulator is a. The engine is at MIX of
round K, or at FINISH after the last. -/
structure AtRound (s₀ : State) (K : Nat) (a : Factor) (s : State) : Prop where
  frame : s = s₀.withLoop s
  acc : s.acc = a
  mix : K < 496 * s₀.nb.toNat → s.upc = upcMix ∧ s.r.toNat ≤ 30 ∧ s.roundIndex = K
  finish : K = 496 * s₀.nb.toNat → s.upc = upcFinish

/-- What the portion loop does not change. -/
theorem AtRound.keeps {s₀ s : State} {K : Nat} {a : Factor} (h : AtRound s₀ K a s) :
    s.rst = s₀.rst ∧ s.sched = s₀.sched ∧ s.busy = s₀.busy ∧ s.err = s₀.err ∧ s.msg = s₀.msg ∧
      s.len = s₀.len ∧ s.nb = s₀.nb := by
  rw [h.frame]
  exact ⟨rfl, rfl, rfl, rfl, rfl, rfl, rfl⟩

/-- The padded stream does not change in the portion loop. -/
theorem AtRound.streamWord {s₀ s : State} {K : Nat} {a : Factor} (h : AtRound s₀ K a s) :
    s.streamWord = s₀.streamWord := by
  rw [h.frame]
  rfl

/-- ADVANCE leaves round K behind (R162). -/
theorem AtRound.of_advance {s₀ s : State} {K : Nat} (hframe : s = s₀.withLoop s)
    (hr : s.r.toNat ≤ 30) (hindex : s.roundIndex = K) (hK : K < 496 * s₀.nb.toNat) :
    AtRound s₀ (K + 1) s.acc s.advance := by
  have hnb : s.nb = s₀.nb := by
    rw [hframe]
    rfl
  subst hindex
  rw [← hnb] at hK
  refine ⟨State.withLoop_trans hframe s.advance_withLoop, s.advance_acc,
      fun hlt => ?_, fun hlast => ?_⟩ <;>
    obtain ⟨hlt', hmix⟩ | ⟨hlast', hfinish⟩ := State.advance_roundIndex hr hK
  · exact hmix
  · rw [hlast', hnb] at hlt
    omega
  · rw [hlast, hnb] at hlt'
    omega
  · exact hfinish

/-- MIX and the 97 steps of the round pipeline (R137, R153); ADVANCE starts from x. -/
theorem run_mixRound {s : State} (hr : s.rst = false) (hs : s.sched = []) (hu : s.upc = upcMix) :
    ∃ x : State, Sys2Proof.core.run 98 s = .next x.advance ∧ x = s.withLoop x ∧
      x.acc = roundPipeline (Config.portionMix s.acc s.portion s.r) ∧ x.r = s.r ∧
      x.roundIndex = s.roundIndex := by
  have hmix : Sys2Proof.core.run 98 s = Sys2Proof.core.run 97 { s with
      acc := Config.portionMix s.acc s.portion s.r, upc := upcCapt } :=
    run_succ_microOp (i := .mix) 97 hr hs (by rw [hu]; rfl) rfl
  exact ⟨_, hmix.trans (run_round hr hs rfl), rfl, rfl, rfl, rfl⟩

/-- The words of a portion inside the padded stream (R164). -/
theorem State.portion_eq_streamPortion {s : State} {w : List Word} {base : Nat}
    (hb : s.portionBase = base) (hw : ∀ i, i < base + 4 → w[i]? = some (s.streamWord i)) :
    s.portion = streamPortion w base := by
  have word : ∀ i, i < base + 4 → w.getD i 0 = s.streamWord i := fun i hi => by
    rw [List.getD_eq_getElem?_getD, hw i hi, Option.getD_some]
  rw [State.portion, streamPortion, hb, word _ (by omega), word _ (by omega), word _ (by omega),
    word _ (by omega)]

/-- From round K on, the next d rounds take 98·d steps and apply f to the accumulator. -/
def Absorbs (s₀ : State) (K d : Nat) (f : Factor → Factor) : Prop :=
  ∀ a s, AtRound s₀ K a s →
    ∃ t : State, Sys2Proof.core.run (98 * d) s = .next t ∧ AtRound s₀ (K + d) (f a) t

/-- k stretches of d rounds each, one after the other. -/
theorem Absorbs.loop {s₀ : State} {K d : Nat} {f : Factor → Nat → Factor} {k : Nat}
    (body : ∀ j < k, Absorbs s₀ (K + d * j) d (f · j)) :
    Absorbs s₀ K (d * k) ((List.range k).foldl f) := by
  intro a s h
  induction k with
  | zero => exact ⟨s, rfl, h⟩
  | succ k ih =>
    obtain ⟨t, hrun, ht⟩ := ih fun j hj => body j (by omega)
    obtain ⟨u, hrun', hu⟩ := body k (by omega) _ t ht
    refine ⟨u, ?_, ?_⟩
    · rw [Nat.mul_succ, Nat.mul_add, run_add _ _ hrun, hrun']
    · simp only [List.range_succ, List.foldl_concat]
      rwa [Nat.mul_succ, ← Nat.add_assoc]

/-! ## The loops of a hash (R164) -/

section Loops

variable {s₀ : State} {w : List Word} (hrst : s₀.rst = false) (hsched : s₀.sched = [])
  (hw : ∀ i, i < 64 * s₀.nb.toNat → w[i]? = some (s₀.streamWord i))

include hrst hsched hw

/-- One round absorbs the portion whose number is K over 31, with round number K mod 31. -/
theorem absorbs_round {K : Nat} (hK : K < 496 * s₀.nb.toNat) :
    Absorbs s₀ K 1 fun a => roundPipeline
      (Config.portionMix a (streamPortion w (4 * (K / 31))) (BitVec.ofNat 5 (K % 31))) := by
  intro a s h
  obtain ⟨hr, hs, -, -, -, -, hnb⟩ := h.keeps
  obtain ⟨hu, hr30, hindex⟩ := h.mix hK
  have hportion : s.portion = streamPortion w (4 * (K / 31)) :=
    State.portion_eq_streamPortion (by rw [s.portionBase_eq hr30, hindex])
      fun i hi => by rw [h.streamWord, hw i (by omega)]
  have hround : s.r = BitVec.ofNat 5 (K % 31) := by
    refine BitVec.eq_of_toNat_eq ?_
    unfold State.roundIndex at hindex
    rw [BitVec.toNat_ofNat]
    omega
  obtain ⟨x, hrun, hframe, hacc, hxr, hxindex⟩ := run_mixRound (hr.trans hrst) (hs.trans hsched) hu
  refine ⟨x.advance, hrun, ?_⟩
  simp only [← h.acc, ← hportion, ← hround, ← hacc]
  exact .of_advance (State.withLoop_trans h.frame hframe) (hxr ▸ hr30) (hxindex.trans hindex) hK

/-- The 31 rounds of portion k. -/
theorem absorbs_portion {k : Nat} (hk : k < 16 * s₀.nb.toNat) :
    Absorbs s₀ (31 * k) 31 (absorbPortion · (streamPortion w (4 * k))) := by
  refine Absorbs.loop (d := 1) (k := 31) fun j hj => ?_
  have h := absorbs_round hrst hsched hw (K := 31 * k + j) (by omega)
  rw [show (31 * k + j) / 31 = k by omega, show (31 * k + j) % 31 = j by omega] at h
  rwa [Nat.one_mul]

/-- The 4 portions of chunk c. -/
theorem absorbs_chunk {c : Nat} (hc : c < 4 * s₀.nb.toNat) :
    Absorbs s₀ (124 * c) 124 (absorbChunk w (16 * c)) := by
  refine Absorbs.loop (d := 31) (k := 4) fun j hj => ?_
  have h := absorbs_portion hrst hsched hw (k := 4 * c + j) (by omega)
  rwa [show 31 * (4 * c + j) = 124 * c + 31 * j by omega,
    show 4 * (4 * c + j) = 16 * c + 4 * j by omega] at h

/-- The 4 chunks of block b. -/
theorem absorbs_block {b : Nat} (hb : b < s₀.nb.toNat) :
    Absorbs s₀ (496 * b) 496 (absorbBlock w (64 * b)) := by
  refine Absorbs.loop (d := 124) (k := 4) fun j hj => ?_
  have h := absorbs_chunk hrst hsched hw (c := 4 * b + j) (by omega)
  rwa [show 124 * (4 * b + j) = 496 * b + 124 * j by omega,
    show 16 * (4 * b + j) = 64 * b + 16 * j by omega] at h

/-- The blocks of the padded stream. -/
theorem absorbs_blocks :
    Absorbs s₀ 0 (496 * s₀.nb.toNat)
      ((List.range s₀.nb.toNat).foldl fun x blk => absorbBlock w (64 * blk) x) := by
  refine Absorbs.loop (d := 496) fun j hj => ?_
  rw [Nat.zero_add]
  exact absorbs_block hrst hsched hw hj

end Loops

/-! ## The whole hash (R164 to R166) -/

/-- A run of j + k steps passes the state after j steps. -/
theorem run_add_inv {s t : State} {j k : Nat} (h : Sys2Proof.core.run (j + k) s = .next t) :
    ∃ u : State, Sys2Proof.core.run j s = .next u ∧ Sys2Proof.core.run k u = .next t := by
  induction j generalizing s with
  | zero => exact ⟨s, rfl, by rwa [Nat.zero_add] at h⟩
  | succ j ih =>
    rw [Nat.succ_add] at h
    obtain ⟨v, hv, h⟩ := run_succ_inv h
    obtain ⟨u, hu, hk⟩ := ih h
    exact ⟨u, (run_succ j hv).trans hu, hk⟩

/-- With the host silent, it stays silent, and nothing sets BUSY (R24). -/
theorem run_silent {s t : State} {k : Nat} (hs : s.sched = [])
    (h : Sys2Proof.core.run k s = .next t) : t.sched = [] ∧ (s.busy = false → t.busy = false) := by
  induction k generalizing s with
  | zero =>
    cases h
    exact ⟨hs, id⟩
  | succ k ih =>
    obtain ⟨u, hu, h⟩ := run_succ_inv h
    rw [step_nil hs] at hu
    obtain ⟨hsched, hbusy⟩ := ih ((engineTurn_keeps hu).2.trans hs) h
    refine ⟨hsched, fun hb => hbusy ?_⟩
    obtain e | ⟨-, e⟩ | ⟨-, e⟩ | ⟨-, e⟩ | ⟨-, e⟩ | ⟨-, e⟩ := engineTurn_cases hu <;> rw [e]
    all_goals exact hb

/-- A run with the host silent that ends BUSY has been BUSY all the way (R24). -/
theorem busy_of_run_busy {s t : State} {n : Nat} (h : Sys2Proof.core.run n s = .next t)
    (hs : s.sched = []) (hb : t.busy = true) {k : Nat} (hk : k ≤ n) :
    ∃ u : State, Sys2Proof.core.run k s = .next u ∧ u.busy = true := by
  obtain ⟨j, rfl⟩ := Nat.exists_eq_add_of_le hk
  obtain ⟨u, hu, hrest⟩ := run_add_inv h
  refine ⟨u, hu, Bool.eq_true_of_not_eq_false fun hidle => ?_⟩
  have hfell := (run_silent (run_silent hs hu).1 hrest).2 hidle
  simp [hb] at hfell

/-- The state that INIT leaves (R130). -/
def State.initStep (s : State) : State :=
  { s with
    acc := ivFactor, nb := blockCount s.len s.nt, blk := 0, ch := 0, po := 0, r := 0
    upc := upcMix }

theorem exec_init (s : State) : exec .init s = .next s.initStep := rfl

/-- INIT enters the portion loop at round 0. -/
theorem AtRound.start {s : State} (hpos : 0 < s.initStep.nb.toNat) :
    AtRound s.initStep 0 ivFactor s.initStep where
  frame := rfl
  acc := rfl
  mix := fun _ => ⟨rfl, Nat.zero_le 30, rfl⟩
  finish := by omega

/-- From INIT, with the stream in place: INIT and the rounds of all blocks absorb it (R164,
R165). -/
theorem run_blocks {s : State} {w : List Word} (hr : s.rst = false) (hs : s.sched = [])
    (hu : s.upc = upcInit) (hpos : 0 < s.initStep.nb.toNat)
    (hlen : w.length = 64 * s.initStep.nb.toNat)
    (hw : ∀ i, i < 64 * s.initStep.nb.toNat → w[i]? = some (s.streamWord i)) :
    ∃ t : State, Sys2Proof.core.run (1 + 48608 * s.initStep.nb.toNat) s = .next t ∧
      AtRound s.initStep (496 * s.initStep.nb.toNat) (absorbStream w) t := by
  obtain ⟨t, hrun, ht⟩ :=
    absorbs_blocks (s₀ := s.initStep) hr hs hw ivFactor s.initStep (.start hpos)
  refine ⟨t, ?_, ?_⟩
  · rw [Nat.add_comm, run_succ_microOp (i := .init) _ hr hs (by rw [hu]; rfl) (exec_init s), ← hrun,
      ← Nat.mul_assoc]
  · rw [absorbStream, hlen, Nat.mul_div_cancel_left _ (by decide)]
    rwa [Nat.zero_add] at ht

theorem State.message_length (s : State) : s.message.length = s.len.toNat := by
  rw [State.message, List.length_map, List.length_range]

/-- The padded message fills its last block (R124). -/
theorem State.padMessage_length {s : State} (h1 : 1 ≤ s.len.toNat) :
    (padMessage s.message).length = s.len.toNat + (64 - s.len.toNat % 64) % 64 := by
  have hne : s.message ≠ [] := List.ne_nil_of_length_pos (by rwa [s.message_length])
  obtain ⟨-, hcount, -⟩ := paddedStreamShape s.message hne
  rw [hcount, s.message_length]

/-- Settles O55: the padded message is in place after NT steps, `run_blocks` absorbs it, and FINISH
publishes it. The engine is BUSY before FINISH, hence at every step up to it. -/
theorem engineComputesPoxHash : Obligations.EngineComputesPoxHash := by
  intro s d hrst hsched hb h1 hcap nt steps
  obtain ⟨t0, p, hexec, hpads, hu, hw, hframe⟩ :=
    padStepsProduceThePaddedMessage s d hrst hsched hb h1 hcap
  cases (exec_start_legal d hb h1 hcap).symm.trans hexec
  obtain ⟨hr', hs', hb', herr', hmsg', hlen', hnt'⟩ : p.rst = false ∧ p.sched = [] ∧
      p.busy = true ∧ p.err = false ∧ p.msg = s.msg ∧ p.len = s.len ∧ p.nt = tailCount s.len := by
    rw [hframe]
    exact ⟨hrst, hsched, rfl, rfl, rfl, rfl, rfl⟩
  have hnb : 64 * p.initStep.nb.toNat = s.len.toNat + nt := by
    change 64 * (blockCount p.len p.nt).toNat = _
    rw [hlen', hnt', blockCount_toNat hcap, tailCount_toNat]
  obtain ⟨f, hblocks, hf⟩ := run_blocks (w := padMessage s.message) hr' hs' hu (by omega)
    ((State.padMessage_length h1).trans hnb.symm) (fun i hi => hw i (by omega))
  obtain ⟨hr, hs, hbusy, herr, hmsg, hlen, -⟩ := hf.keeps
  have hfinish := run_succ_microOp (i := .finish) 0 (hr.trans hr') (hs.trans hs')
    (by rw [hf.finish rfl]; rfl) (exec_finish f)
  have hrun := (run_add nt (1 + 48608 * p.initStep.nb.toNat) hpads).trans hblocks
  have hsteps : steps = nt + (1 + 48608 * p.initStep.nb.toNat) + 1 := by omega
  rw [hsteps]
  refine ⟨_, _, hexec, (run_add _ 1 hrun).trans hfinish, hf.acc, rfl, rfl, rfl, rfl,
    herr.trans herr', hmsg.trans hmsg', hlen.trans hlen', fun k hk => ?_⟩
  exact busy_of_run_busy hrun hsched (hbusy.trans hb') (by omega)

end Sys2Proof.Machine
end

section
/-! PROOFS, family 45_digest.md. The digits, the digest strings and the numeric views (R171 to
R181). Words side by side in a wider value add up; the byte view is the bytes of the two doubles,
which are the registers that the bus reads (R28, R177). -/

namespace Sys2Proof.Machine

/-! ## Digits and digest strings (R172 to R176) -/

/-- Settles O56: W_B digits, each below its base, with the word as their positional value. -/
theorem digitsArePositional : Obligations.DigitsArePositional := fun b v =>
  ⟨digits_length b v, digits_lt b v, digits_foldl b v⟩

theorem mem_alphabet_of_mem_chars {b : Base} {v : Word} {c : Byte} (h : c ∈ chars b v) :
    c ∈ Config.alphabet b := by
  obtain ⟨d, hd, rfl⟩ := List.mem_map.1 h
  exact charOf_mem b (digits_lt b v d hd)

/-- Settles O57: a string has 4·W_B characters, each one a character of one of the four words. -/
theorem digestShapeAndAlphabet : Obligations.DigestShapeAndAlphabet := by
  intro out
  have len := fun b => digestString_length b out
  refine ⟨len .b60, len .b20, len .b16, len .b14, len .b12, len .b8, len .b6, len .b2,
    fun b c hc => ?_⟩
  simp only [digestString, List.mem_append] at hc
  obtain ((h | h) | h) | h := hc <;> exact mem_alphabet_of_mem_chars h

/-! ## Numeric views (R177 to R181) -/

/-- A value below 2^k and one shifted past it add up, where the sum's upper part fits. -/
theorem or_shiftLeft_toNat {w k : Nat} {lo hi : BitVec w} (hlo : lo.toNat < 2 ^ k)
    (hhi : 2 ^ k * hi.toNat < 2 ^ w) : (lo ||| hi <<< k).toNat = lo.toNat + 2 ^ k * hi.toNat := by
  rw [BitVec.toNat_or, BitVec.toNat_shiftLeft, Nat.shiftLeft_eq, Nat.mul_comm, Nat.mod_eq_of_lt hhi,
    Nat.or_comm, ← Nat.two_pow_add_eq_or_of_lt hlo, Nat.add_comm]

theorem quadView_toNat (x : Factor) :
    (quadView x).toNat =
      x[0].toNat + 2 ^ 16 * x[1].toNat + 2 ^ 32 * x[2].toNat + 2 ^ 48 * x[3].toNat := by
  have zext : ∀ v : Word, (v.setWidth 64).toNat = v.toNat := fun v =>
    BitVec.toNat_setWidth_of_le (by decide)
  have h0 := x[0].isLt
  have h1 := x[1].isLt
  have h2 := x[2].isLt
  have h3 := x[3].isLt
  have two := or_shiftLeft_toNat (k := 16) (lo := x[0].setWidth 64) (hi := x[1].setWidth 64)
    (by rw [zext]; omega) (by rw [zext]; omega)
  have three := or_shiftLeft_toNat (k := 32) (hi := x[2].setWidth 64)
    (by rw [two, zext, zext]; omega) (by rw [zext]; omega)
  have four := or_shiftLeft_toNat (k := 48) (hi := x[3].setWidth 64)
    (by rw [three, two, zext, zext, zext]; omega) (by rw [zext]; omega)
  rw [quadView, four, three, two, zext, zext, zext, zext]

theorem lowByte_toNat (v : Word) : (v.setWidth 8 : Byte).toNat = v.toNat % 256 :=
  BitVec.toNat_setWidth ..

theorem highByte_toNat (v : Word) : ((v >>> 8).setWidth 8 : Byte).toNat = v.toNat / 256 := by
  have := v.isLt
  rw [BitVec.toNat_setWidth, BitVec.toNat_ushiftRight, Nat.shiftRight_eq_div_pow]
  omega

/-- Settles O59: words and doubles as they are named, the quad as its sum, and the bytes word by
word. -/
theorem numericViewsAgree : Obligations.NumericViewsAgree := by
  intro x
  refine ⟨out01_toNat x, out23_toNat x, quadView_toNat x, rfl, rfl, rfl, fun i => ?_⟩
  match i with
  | 0 | 1 | 2 | 3 => exact ⟨congrArg some (lowByte_toNat _), congrArg some (highByte_toNat _)⟩

/-! ## The byte view on the bus (R28, R177) -/

/-- The bytes of a double are those of its two words, the lower word's first (R28, R179). -/
theorem map_byteOf_or_word (x y : Word) :
    (List.range 4).map (byteOf (x.setWidth 32 ||| y.setWidth 32 <<< 16)) =
      [x.setWidth 8, (x >>> 8).setWidth 8, y.setWidth 8, (y >>> 8).setWidth 8] := by
  have hx := x.isLt
  have byte : ∀ (k : Nat) (c : Byte), (x.toNat + 2 ^ 16 * y.toNat) / 2 ^ (8 * k) % 256 = c.toNat →
      byteOf (x.setWidth 32 ||| y.setWidth 32 <<< 16) k = c := fun k c h =>
    BitVec.eq_of_toNat_eq (by rw [byteOf_toNat, or_word_toNat, h])
  have h0 := byte 0 (x.setWidth 8) (by rw [lowByte_toNat]; omega)
  have h1 := byte 1 ((x >>> 8).setWidth 8) (by rw [highByte_toNat]; omega)
  have h2 := byte 2 (y.setWidth 8) (by rw [lowByte_toNat]; omega)
  have h3 := byte 3 ((y >>> 8).setWidth 8) (by rw [highByte_toNat]; omega)
  rw [← h0, ← h1, ← h2, ← h3]
  rfl

/-- The byte view is the bytes of OUT01, then those of OUT23. -/
theorem bytesView_eq_bytes_of_doubles (x : Factor) :
    bytesView x =
      (List.range 4).map (byteOf (out01 x)) ++ (List.range 4).map (byteOf (out23 x)) := by
  rw [out01, out23, map_byteOf_or_word, map_byteOf_or_word]
  rfl

theorem bytesView_getElem?_out01 (x : Factor) (off : BitVec 2) :
    (bytesView x)[off.toNat]? = some (byteOf (out01 x) off.toNat) := by
  have := off.isLt
  simp [bytesView_eq_bytes_of_doubles, List.getElem?_append, this]

theorem bytesView_getElem?_out23 (x : Factor) (off : BitVec 2) :
    (bytesView x)[4 + off.toNat]? = some (byteOf (out23 x) off.toNat) := by
  have := off.isLt
  simp [bytesView_eq_bytes_of_doubles, List.getElem?_append, this]

/-- With rst released, a register's 1-byte read at offset `off` answers that byte of its value. -/
theorem step_readByte {i : Item} {mk : BitVec 2 → Size → Instr} (row : ReadRow i mk) {s : State}
    {v : Word32} {off : BitVec 2} {rest : List Event} (hr : s.rst = false)
    (hs : s.sched = .bus (.read (itemAddr i off) .one) :: rest)
    (meaning : exec (mk off .one) { s with sched := rest } =
      .next (readRegister i v off .one { s with sched := rest })) :
    ∃ t w, step s = .next t ∧ t.resp = some (.readData w) ∧
      w.toNat = (byteOf v off.toNat).toNat := by
  have hal : off.toNat % bytesOf .one = 0 := Nat.mod_one _
  have decoded := row.decode_read (off := off) (n := .one) (by simp [aligned, hal])
  obtain ⟨w, answered, hw⟩ := readRegister_value hal i rfl { s with sched := rest }
  have stepped := (step_bus hr hs).trans ((runEncoding_ok decoded _).trans (meaning.trans answered))
  exact ⟨_, w, stepped, rfl, hw.trans (byteOf_toNat v off.toNat).symm⟩

/-- Settles O60: the first four bytes are those of OUT01's register, the others those of OUT23's. -/
theorem byteViewIsReadAtItsAddresses : Obligations.ByteViewIsReadAtItsAddresses := by
  intro s j rest hj hr hs
  have place : ∀ k < 4, ∃ off : BitVec 2, off.toNat = k := fun k hk =>
    ⟨.ofNat 2 k, Nat.mod_eq_of_lt hk⟩
  by_cases hlow : j < 4
  · obtain ⟨off, rfl⟩ := place j hlow
    obtain ⟨t, w, hstep, hresp, hw⟩ := step_readByte (i := .out01) {} hr hs rfl
    exact ⟨t, w, hstep, hresp, by rw [bytesView_getElem?_out01, hw]; rfl⟩
  · obtain ⟨off, hoff⟩ := place (j - 4) (by omega)
    obtain rfl : j = 4 + off.toNat := by omega
    rw [← Nat.add_assoc] at hs
    obtain ⟨t, w, hstep, hresp, hw⟩ := step_readByte (i := .out23) {} hr hs rfl
    exact ⟨t, w, hstep, hresp, by rw [bytesView_getElem?_out23, hw]; rfl⟩

end Sys2Proof.Machine
end

section
/-! PROOFS, family 60_exceptions.md. Bus errors (R205), the ways back from an engine error (R207)
and the interrupt output (R208), from what a STATUS write and a refused START leave of the flags. -/

namespace Sys2Proof.Machine

/-! ## Bus errors (R117, R205) -/

/-- BUS_ERR is the answer alone. -/
theorem exec_busErr (t : Transaction) (s : State) :
    exec (.busErr t) s = .next { s with resp := some (busErrorResponse t) } := rfl

/-- With rst released, the turn of a transaction that decodes to BUS_ERR is that answer. -/
theorem step_busErr {s : State} {t : Transaction} {rest : List Event} (hr : s.rst = false)
    (ht : decode (.bus t) = .ok (.busErr t)) (hs : s.sched = .bus t :: rest) :
    step s = .next { s with resp := some (busErrorResponse t), sched := rest } :=
  ((hostTurnRunsTheDecodedTransaction s rest _ hr).1 t hs ht).trans (exec_busErr t _)

/-- Settles O32: the response to a read is the error with data 0, to a write the error alone. -/
theorem busErrorChangesNothing : Obligations.BusErrorChangesNothing := fun s a n d _ =>
  ⟨exec_busErr (.read a n) s, exec_busErr (.write a n d) s, step_busErr, step_busErr⟩

/-! ## What a STATUS write and a refused START leave of the flags (R104, R203) -/

@[simp] theorem State.statusWrite_done (s : State) (d : Word32) :
    (s.statusWrite d).done = (s.done && !d[1]) := by rw [State.statusWrite_eq]

@[simp] theorem State.statusWrite_err (s : State) (d : Word32) :
    (s.statusWrite d).err = (s.err && !d[2]) := by rw [State.statusWrite_eq]

@[simp] theorem State.statusWrite_cause (s : State) (d : Word32) :
    (s.statusWrite d).cause = if d[2] then 0 else s.cause := by rw [State.statusWrite_eq]

theorem exec_wrStatus (s : State) (d : Word32) :
    exec (.wrStatus d) s = .next ((s.statusWrite d).answer .writeDone) := rfl

theorem exec_clear (s : State) (d : Word32) :
    exec (.clear d) s = .next ((s.setIe d).clearCommand.answer .writeDone) := rfl

/-- A START refused for its empty input, with the copy into IE and the answer (R101, R103). -/
theorem exec_start_empty {s : State} (d : Word32) (hb : s.busy = false) (h0 : s.len.toNat = 0) :
    exec (.start d) s =
      .next (((s.setIe d).clearOutcome.raiseError .emptyInput).answer .writeDone) := by
  rw [← State.startCommand_of_empty (s := s.setIe d) hb h0]
  rfl

/-! ## Recovery (R207) -/

/-- Settles O48: each way back by its own equation; a START clears the outcome before its checks, so
a second refusal leaves its own cause. -/
theorem errorsAreRecoverable : Obligations.ErrorsAreRecoverable := by
  intro s d _ hb
  refine ⟨fun h2 => ?statusWrite, ?clear, fun h1 hcap => ?legalStart, fun h0 => ?emptyStart⟩
  case statusWrite => exact ⟨_, exec_wrStatus s d, by simp [h2], by simp [h2]⟩
  case clear => exact ⟨_, exec_clear s d, rfl, rfl⟩
  case legalStart => exact ⟨_, exec_start_legal d hb h1 hcap, rfl, rfl, rfl⟩
  case emptyStart => exact ⟨_, exec_start_empty d hb h0, rfl, rfl⟩

/-! ## The interrupt output (R208) -/

/-- STATUS bit 4 mirrors irq, whatever the other flags are (R24). -/
theorem State.statusWord_irq (s : State) : s.statusWord.getLsbD 4 = s.irq := by
  have bit : ∀ b d e w i : Bool,
      (flagBit b ||| flagBit d <<< 1 ||| flagBit e <<< 2 ||| flagBit w <<< 3 |||
        flagBit i <<< 4).getLsbD 4 = i := by decide
  exact bit ..

/-- Settles O47: irq reads IE, DONE and ERR, so each event moves it by what it leaves of those. -/
theorem irqIsEnableAndDoneOrErr : Obligations.IrqIsEnableAndDoneOrErr := by
  intro s
  refine ⟨rfl, s.statusWord_irq, rfl, fun t h => ?finish, fun d t hb h0 h => ?emptyStart,
    fun d t h1 h2 h => ?statusWrite⟩
  case finish =>
    cases (exec_finish s).symm.trans h
    simp [State.irq]
  case emptyStart =>
    cases (exec_start_empty d hb (congrArg BitVec.toNat h0)).symm.trans h
    simp [State.irq]
  case statusWrite =>
    cases (exec_wrStatus s d).symm.trans h
    simp [State.irq, h1, h2]

end Sys2Proof.Machine
end

section
/-! PROOFS, family 70_reset_and_hazards.md, reset (R220, R221, R223). While rst is asserted no turn
but a change of rst has an effect; asserting it leaves `State.reset` but for MSG's contents and the
fields that are no registers of the block. -/

namespace Sys2Proof.Machine

/-! ## While rst is asserted (R220) -/

theorem engineTurn_asserted {s : State} (hr : s.rst = true) : engineTurn s = .next s := if_pos hr

theorem hostTurn_asserted {s : State} (hr : s.rst = true) (e : Encoding) :
    hostTurn e s = .next { s with resp := none } := if_pos hr

/-- Settles O10, by whose turn it is. -/
theorem assertedResetFreezesTheBlock : Obligations.AssertedResetFreezesTheBlock := by
  intro s hr
  refine ⟨fun hs => ?none, fun rest hs => ?engine, fun t rest hs => ?bus, fun d rest hs => ?command⟩
  case none => exact (step_nil hs).trans (engineTurn_asserted hr)
  case engine => exact (step_cons hs).trans (engineTurn_asserted (s := { s with sched := rest }) hr)
  case bus => exact (step_cons hs).trans (hostTurn_asserted (s := { s with sched := rest }) hr _)
  case command => exact (step_cons hs).trans (hostTurn_asserted (s := { s with sched := rest }) hr _)

/-! ## The reset values (R221, R223) -/

/-- The turns that assert and release rst leave the state after reset, with MSG drawn again. -/
theorem run_reset_turns {s : State} {rest : List Event}
    (hs : s.sched = .rst true :: .rst false :: rest) :
    Sys2Proof.core.run 2 s = .next { State.reset with
      msg := ⟨s.msg.draw + 1, []⟩, resp := s.resp, sched := rest } := by
  have asserted : step s = .next (State.setRst { s with sched := .rst false :: rest } true) :=
    step_cons hs
  exact run_two asserted (step_cons (e := .rst false) rfl)

/-- Four zero words read as sixteen times the first character of ALPH_16 (R173). -/
theorem digestString_b16_zero : digestString .b16 Factor.zero = List.replicate 16 0x30 := by decide

/-- Settles O11: neither MSG nor a field that is no register of the block is among the values. -/
theorem resetLeavesTheResetValues : Obligations.ResetLeavesTheResetValues := by
  unfold Obligations.ResetLeavesTheResetValues
  intro resetValues
  have values (msg : Memory) (resp : Option Response) (sched : List Event) :
      resetValues { State.reset with msg := msg, resp := resp, sched := sched } := by
    refine ⟨rfl, rfl, rfl, rfl, rfl, rfl, rfl, rfl, fun k => ?words, rfl, rfl, rfl, rfl, rfl, rfl,
      rfl, rfl, rfl, rfl, digestString_b16_zero⟩
    case words =>
      have zero : Factor.zero[k] = 0 := Factor.zero_getElem k.isLt
      exact ⟨zero, zero, zero⟩
  exact ⟨values .., fun s rest hs => ⟨_, run_reset_turns hs, values .., rfl⟩⟩

/-- Settles O12: CLEAR writes the reset value of every register but IE, LEN, MSG and TAIL. -/
theorem clearDiffersFromResetInIeLenMsgOnly : Obligations.ClearDiffersFromResetInIeLenMsgOnly :=
  fun s d _ => ⟨_, exec_clear s d, rfl⟩

/-- Settles O13: an idle engine, with no flag set and no byte of MSG listed. -/
theorem invariantHoldsAtReset : Obligations.InvariantHoldsAtReset :=
  .of_idle rfl rfl (by decide) (by decide) (by decide) (by decide) rfl (Memory.wf_nil 0)
    fun _ hc => nomatch hc

end Sys2Proof.Machine
end

section
/-! PROOFS, family 70_reset_and_hazards.md, the runs. A run that has ended stays ended, and outside
reset only an idle engine's step changes nothing (R160, R234); the engine reads MSG below LEN only,
so bytes at and beyond it do not reach another field (R230). -/

namespace Sys2Proof.Machine

/-! ## The end of a run (R234) -/

theorem State.ended.exists_step {s : State} (h : s.ended) : ∃ t, step s = .next t ∧ t.ended := by
  obtain ⟨hdone, hu, hb⟩ := h
  cases hs : s.sched with
  | nil => exact ⟨s, (step_nil hs).trans (engineTurn_idle hu), hdone, hu, hb⟩
  | cons e rest =>
    obtain ⟨he, hrest⟩ := State.hostDone_tail hdone hs
    obtain rfl | ⟨b, rfl⟩ := Event.isHost_eq_false.1 he
    · exact ⟨_, (step_cons hs).trans (engineTurn_idle hu), hrest, hu, hb⟩
    · refine ⟨_, step_cons hs, ?_⟩
      cases b with
      | true => exact ⟨hrest, rfl, rfl⟩
      | false => exact ⟨hrest, hu, hb⟩

theorem State.ended.exists_run {s : State} (h : s.ended) (k : Nat) :
    ∃ t, Sys2Proof.core.run k s = .next t ∧ t.ended := by
  induction k generalizing s with
  | zero => exact ⟨s, rfl, h⟩
  | succ k ih =>
    obtain ⟨u, hu, hended⟩ := h.exists_step
    obtain ⟨t, ht, hended'⟩ := ih hended
    exact ⟨t, (run_succ k hu).trans ht, hended'⟩

/-- An idle engine's turns only use themselves up. -/
theorem run_idle_engine {s : State} (hu : s.upc = upcIdle) (hs : ∀ e ∈ s.sched, e = .engine)
    (k : Nat) : Sys2Proof.core.run k s = .next { s with sched := s.sched.drop k } := by
  induction k generalizing s with
  | zero => rfl
  | succ k ih =>
    have hstep : step s = .next { s with sched := s.sched.tail } := by
      cases hl : s.sched with
      | nil => rw [step_nil hl, engineTurn_idle hu, List.tail_nil, ← hl]
      | cons e rest =>
        obtain rfl := hs e (by simp [hl])
        exact (step_cons hl).trans (engineTurn_idle hu)
    rw [run_succ k hstep, ih (s := { s with sched := s.sched.tail }) hu
      fun e he => hs e (List.mem_of_mem_tail he), List.drop_tail]

/-- Every micro-op but IDLE, run from its own code, moves on to another code or, in PAD and PRIME,
counts. -/
theorem upc_eq_idle_of_exec_self {s : State} {i : Instr} (hi : decodeMicro s.upc = .ok i)
    (h : exec i s = .next s) : s.upc = upcIdle := by
  have code : .micro s.upc = encode i := (encodeOfDecodeIsTheEncoding (.micro s.upc) i hi).2.symm
  have same {t : State} (ht : exec i s = .next t) : t = s := Host.Outcome.next.inj (ht.symm.trans h)
  have stays {t : State} (ht : exec i s = .next t) : .micro t.upc = encode i := by rw [same ht, code]
  cases i with
  | idle => exact Encoding.micro.inj code
  | init | mix | capt | alpha | delta | theta | gamma | shuf | finish =>
    exact absurd (stays rfl) (by simp [encode])
  | pad =>
    by_cases ht : s.t.toNat < 63
    · have count : s.t + 1 = s.t := congrArg State.t (same (exec_pad ht))
      simp at count
    · cases (dif_neg ht).symm.trans h
  | prime =>
    by_cases hq : s.q.toNat = 89
    · exact absurd (stays (exec_prime_last hq)) (by simp [encode])
    · have count : s.q + 1 = s.q := congrArg State.q (same (exec_prime_more hq))
      simp at count
  | add =>
    have add : _ = upcAdd := Encoding.micro.inj (stays rfl)
    obtain e | e := State.advance_upc { s with acc := addFactor s.pre s.acc } <;>
      exact absurd (e.symm.trans add) (by decide)
  | _ => cases isMicroOp_of_decodeMicro hi

/-- Settles O17: BUSY and the host's turns left are read off `State.ended`; what rests is idle, and
idle is not BUSY by the invariant. -/
theorem runsEndExactlyAtRest : Obligations.RunsEndExactlyAtRest := by
  intro s
  refine ⟨fun hb h => ?busy, fun h => h.exists_run,
    fun ⟨_, hu, _⟩ hs => run_idle_engine hu hs,
    fun hinv hr => ⟨fun h => ?rests, fun h => ?ends⟩⟩
  case busy =>
    obtain ⟨-, -, hidle⟩ := h
    simp [hb] at hidle
  case rests =>
    obtain ⟨hdone, hu, -⟩ := h
    exact ⟨State.hostDone_iff.1 hdone, (step_nil rfl).trans (engineTurn_idle hu)⟩
  case ends =>
    obtain ⟨hturns, hrests⟩ := h
    obtain ⟨i, hi⟩ := decodeMicro_ok hinv.upc_code
    have hexec := (engineTurnRunsTheMicroOpInUpc { s with sched := [] } i hr hi).1 rfl
    have hu : s.upc = upcIdle :=
      upc_eq_idle_of_exec_self (s := { s with sched := [] }) hi (hexec.symm.trans hrests)
    refine ⟨State.hostDone_iff.2 hturns, hu, Bool.eq_false_of_not_eq_true fun hb => ?_⟩
    exact hinv.busy_iff.1 hb hu

/-! ## Message bytes at and beyond L (R230) -/

/-- s with other message contents. -/
def State.withMsg (s : State) (m : Memory) : State := { s with msg := m }

/-- m reads as s's message below LEN. -/
def State.MessageIn (s : State) (m : Memory) : Prop := ∀ i < s.len.toNat, m.read i = s.msg.read i

theorem State.MessageIn.congr {s t : State} {m : Memory} (h : s.MessageIn m)
    (hlen : t.len = s.len) (hmsg : t.msg = s.msg) : t.MessageIn m := by
  intro i hi
  rw [hmsg]
  exact h i (hlen ▸ hi)

section SameMessage

variable {s : State} {m : Memory} (hm : s.MessageIn m)

include hm

/-- PAD's index is below LEN (R122). -/
theorem State.MessageIn.padWord_eq (hlen : 1 ≤ s.len.toNat) :
    (s.withMsg m).padWord = s.padWord := by
  have hne : s.len.toNat ≠ 0 := by omega
  have hbyte := hm _ (Nat.mod_lt s.n.toNat hlen)
  simp only [State.padWord, State.withMsg, padIndex, hne, reduceIte, hbyte]

/-- The stream takes its words from MSG below LEN (R121). -/
theorem State.MessageIn.streamWord_eq : (s.withMsg m).streamWord = s.streamWord := by
  funext i
  by_cases hi : i < s.len.toNat
  · rw [streamWord_of_lt hi, ← hm i hi]
    exact streamWord_of_lt hi
  · exact (if_neg hi).trans (if_neg hi).symm

theorem State.MessageIn.portion_eq : (s.withMsg m).portion = s.portion := by
  unfold State.portion
  rw [hm.streamWord_eq]
  rfl

end SameMessage

theorem State.advance_withMsg (s : State) (m : Memory) :
    (s.withMsg m).advance = s.advance.withMsg m := by
  simp only [advance, apply_ite (State.withMsg · m)]
  rfl

/-- Of the micro-ops, PAD and MIX read MSG, and both below LEN (R80). -/
theorem exec_withMsg {i : Instr} {s t : State} {m : Memory} (hi : i.isMicroOp = true)
    (hm : s.MessageIn m) (hpad : i = .pad → 1 ≤ s.len.toNat) (h : exec i s = .next t) :
    exec i (s.withMsg m) = .next (t.withMsg m) := by
  cases i with
  | pad =>
    by_cases ht : s.t.toNat < 63
    · cases (exec_pad ht).symm.trans h
      refine (exec_pad (s := s.withMsg m) ht).trans ?_
      unfold State.padStep
      rw [hm.padWord_eq (hpad rfl)]
      rfl
    · cases (dif_neg ht).symm.trans h
  | mix =>
    cases h
    simp only [exec, execMix, hm.portion_eq]
    rfl
  | prime =>
    by_cases hq : s.q.toNat = 89
    · cases (exec_prime_last hq).symm.trans h
      exact exec_prime_last (s := s.withMsg m) hq
    · cases (exec_prime_more hq).symm.trans h
      exact exec_prime_more (s := s.withMsg m) hq
  | add =>
    cases h
    exact congrArg Host.Outcome.next
      (State.advance_withMsg { s with acc := addFactor s.pre s.acc } m)
  | idle | init | capt | alpha | delta | theta | gamma | shuf | finish =>
    cases h
    rfl
  | _ => cases hi

/-- PAD comes with a length of at least 1: a hash is running. -/
theorem State.Inv.one_le_len_of_pad {s : State} (h : s.Inv) (hi : decodeMicro s.upc = .ok .pad) :
    1 ≤ s.len.toNat := by
  have hu : s.upc = upcPad := Encoding.micro.inj (decode_eq_pad (e := .micro s.upc) hi)
  exact (h.busy_len (h.busy_of_upc (by simp [hu]))).1

theorem engineTurn_withMsg {s t : State} {m : Memory} (hinv : s.Inv) (hm : s.MessageIn m)
    (h : engineTurn s = .next t) : engineTurn (s.withMsg m) = .next (t.withMsg m) := by
  by_cases hr : s.rst = true
  · cases (engineTurn_asserted hr).symm.trans h
    exact engineTurn_asserted (s := s.withMsg m) hr
  · obtain ⟨i, hi⟩ := decodeMicro_ok hinv.upc_code
    have runs (s' : State) (hr : ¬ s'.rst = true) (hi : decode (.micro s'.upc) = .ok i) :
        engineTurn s' = exec i s' := (if_neg hr).trans (runEncoding_ok hi s')
    rw [runs s hr hi] at h
    rw [runs (s.withMsg m) hr hi]
    exact exec_withMsg (isMicroOp_of_decodeMicro hi) hm
      (fun e => hinv.one_le_len_of_pad (e ▸ hi)) h

theorem engineTurn_len {s t : State} (h : engineTurn s = .next t) : t.len = s.len := by
  obtain e | ⟨-, e⟩ | ⟨-, e⟩ | ⟨-, e⟩ | ⟨-, e⟩ | ⟨-, e⟩ := engineTurn_cases h <;> rw [e]

theorem run_withMsg {s : State} {m : Memory} (hinv : s.Inv) (hs : s.sched = [])
    (hm : s.MessageIn m) (k : Nat) :
    ∃ t, Sys2Proof.core.run k s = .next t ∧
      Sys2Proof.core.run k (s.withMsg m) = .next (t.withMsg m) := by
  induction k generalizing s with
  | zero => exact ⟨s, rfl, rfl⟩
  | succ k ih =>
    obtain ⟨u, hstep⟩ := invariantStatesGoOn.1 s hinv
    have hu : engineTurn s = .next u := (step_nil hs).symm.trans hstep
    have hstep' : step (s.withMsg m) = .next (u.withMsg m) :=
      (step_nil (s := s.withMsg m) hs).trans (engineTurn_withMsg hinv hm hu)
    obtain ⟨t, hrun, hrun'⟩ := ih (engineTurn_keeps_inv hinv hu) ((engineTurn_keeps hu).2.trans hs)
      (hm.congr (engineTurn_len hu) (engineTurn_msg hu))
    exact ⟨t, (run_succ k hstep).trans hrun, (run_succ k hstep').trans hrun'⟩

/-- Settles O51: `run_withMsg`, its two states written out. -/
theorem bytesBeyondTheLengthDoNotMatter : Obligations.BytesBeyondTheLengthDoNotMatter :=
  fun _ _ k hinv hs hm => run_withMsg hinv hs hm k

end Sys2Proof.Machine
end
